-- ==== Sys2Proof/Word.lean ====
section
/-! DEFINITION. The word types of the Debug Module (spec/00_scope.md R13): bit 0 is the least significant bit. -/

namespace Sys2Proof

/-- R13: a `Byte` is an 8-bit vector. -/
abbrev Byte := BitVec 8

/-- R13: a `Word32` is a 32-bit vector, the width of every DMI register and of every instruction word (R126). -/
abbrev Word32 := BitVec 32

/-- A general register of a hart, wide enough for both values of `XLEN` (R11). On a 32-bit hart only the low half is used. -/
abbrev XWord := BitVec 64

end Sys2Proof
end

