-- ==== Sys2Proof/Syntax.lean ====
section
/-! DEFINITION. The instructions of the Debug Module: one constructor per row of spec/opcode_table.json (R129), and the
request packets in which they reach the block. The rows are transactions of the DMI, BUS, EVT and OWN ports, the
classes of the command word, and the instruction words that the stager emits and a hart executes. -/

namespace Sys2Proof

/-- One constructor per row of the opcode table. Operands are what the row's fields leave free. -/
inductive Instr where
  -- DMI reads and writes (40_dmi_registers.md)
  /-- R149, slot 0. -/
  | dmiReadData0
  /-- R150, slot 0; `v` is the word written. -/
  | dmiWriteData0 (v : Word32)
  /-- R149, slot 1. -/
  | dmiReadData1
  /-- R150, slot 1; `v` is the word written. -/
  | dmiWriteData1 (v : Word32)
  /-- R149, slot 2. -/
  | dmiReadData2
  /-- R150, slot 2; `v` is the word written. -/
  | dmiWriteData2 (v : Word32)
  /-- R149, slot 3. -/
  | dmiReadData3
  /-- R150, slot 3; `v` is the word written. -/
  | dmiWriteData3 (v : Word32)
  /-- R149, slot 4. -/
  | dmiReadData4
  /-- R150, slot 4; `v` is the word written. -/
  | dmiWriteData4 (v : Word32)
  /-- R149, slot 5. -/
  | dmiReadData5
  /-- R150, slot 5; `v` is the word written. -/
  | dmiWriteData5 (v : Word32)
  /-- R149, slot 6. -/
  | dmiReadData6
  /-- R150, slot 6; `v` is the word written. -/
  | dmiWriteData6 (v : Word32)
  /-- R149, slot 7. -/
  | dmiReadData7
  /-- R150, slot 7; `v` is the word written. -/
  | dmiWriteData7 (v : Word32)
  /-- R141. -/
  | dmiReadDmcontrol
  /-- R142; `v` is the word written. -/
  | dmiWriteDmcontrol (v : Word32)
  /-- R145. -/
  | dmiReadAbstractcs
  /-- R146; `v` is the word written. -/
  | dmiWriteAbstractcs (v : Word32)
  /-- R147. -/
  | dmiReadCommand
  /-- R148; `v` is the word written. -/
  | dmiWriteCommand (v : Word32)
  /-- R151, word 0. -/
  | dmiReadProgbuf0
  /-- R152, word 0; `v` is the word written. -/
  | dmiWriteProgbuf0 (v : Word32)
  /-- R151, word 1. -/
  | dmiReadProgbuf1
  /-- R152, word 1; `v` is the word written. -/
  | dmiWriteProgbuf1 (v : Word32)
  /-- R151, word 2. -/
  | dmiReadProgbuf2
  /-- R152, word 2; `v` is the word written. -/
  | dmiWriteProgbuf2 (v : Word32)
  /-- R151, word 3. -/
  | dmiReadProgbuf3
  /-- R152, word 3; `v` is the word written. -/
  | dmiWriteProgbuf3 (v : Word32)
  /-- R151, word 4. -/
  | dmiReadProgbuf4
  /-- R152, word 4; `v` is the word written. -/
  | dmiWriteProgbuf4 (v : Word32)
  /-- R151, word 5. -/
  | dmiReadProgbuf5
  /-- R152, word 5; `v` is the word written. -/
  | dmiWriteProgbuf5 (v : Word32)
  /-- R151, word 6. -/
  | dmiReadProgbuf6
  /-- R152, word 6; `v` is the word written. -/
  | dmiWriteProgbuf6 (v : Word32)
  /-- R151, word 7. -/
  | dmiReadProgbuf7
  /-- R152, word 7; `v` is the word written. -/
  | dmiWriteProgbuf7 (v : Word32)
  -- command classes (R121, 41_abstract_commands.md); `b23` and `b19` are the ignored bits of R119, kept because the
  -- whole word is recorded (R184)
  /-- R194. -/
  | arRead32 (b23 b19 postexec : Bool) (r : BitVec 5)
  /-- R195. -/
  | arWrite32 (b23 b19 postexec : Bool) (r : BitVec 5)
  /-- R196. -/
  | arRead64 (b23 b19 postexec : Bool) (r : BitVec 5)
  /-- R197. -/
  | arWrite64 (b23 b19 postexec : Bool) (r : BitVec 5)
  /-- R198; `hi` and `lo` are the ignored bits 23:19 and 16:0. -/
  | arExec (hi : BitVec 5) (lo : BitVec 17)
  /-- R199; `hi` and `lo` are the ignored bits 23:19 and 16:0. -/
  | arNop (hi : BitVec 5) (lo : BitVec 17)
  /-- R200; `low` is bits 23:0, with bit 17 (transfer) set. -/
  | arUnsup (low : BitVec 24)
  /-- R201; bits 23:0 are ignored but recorded. -/
  | quick (low : BitVec 24)
  /-- R202, `cmdtype` in 2..3; `low` is every bit below the row's fixed ones. -/
  | unknown2_3 (low : BitVec 25)
  /-- R202, `cmdtype` in 4..7; `low` is every bit below the row's fixed ones. -/
  | unknown4_7 (low : BitVec 26)
  /-- R202, `cmdtype` in 8..15; `low` is every bit below the row's fixed ones. -/
  | unknown8_15 (low : BitVec 27)
  /-- R202, `cmdtype` in 16..31; `low` is every bit below the row's fixed ones. -/
  | unknown16_31 (low : BitVec 28)
  /-- R202, `cmdtype` in 32..63; `low` is every bit below the row's fixed ones. -/
  | unknown32_63 (low : BitVec 29)
  /-- R202, `cmdtype` in 64..127; `low` is every bit below the row's fixed ones. -/
  | unknown64_127 (low : BitVec 30)
  /-- R202, `cmdtype` in 128..255; `low` is every bit below the row's fixed ones. -/
  | unknown128_255 (low : BitVec 31)
  -- BUS loads and stores (42_device_bus.md); `off` is the BUS offset, as R82 numbers it
  /-- R222. -/
  | loadEntry (off len : Nat)
  /-- R223. -/
  | loadExc (off len : Nat)
  /-- R224. -/
  | loadProgbuf (off len : Nat)
  /-- R225. -/
  | loadCode (off len : Nat)
  /-- R230. -/
  | loadExch (off len : Nat)
  /-- R227; the length is the number of bytes (R226). -/
  | storeEntry (off : Nat) (bytes : List Byte)
  /-- R228; the length is the number of bytes (R226). -/
  | storeExc (off : Nat) (bytes : List Byte)
  /-- R231; the length is the number of bytes (R226). -/
  | storeProgbuf (off : Nat) (bytes : List Byte)
  /-- R229; the length is the number of bytes (R226). -/
  | storeCode (off : Nat) (bytes : List Byte)
  /-- R232; the length is the number of bytes (R226). -/
  | storeExch (off : Nat) (bytes : List Byte)
  -- EVT and OWN (43_hart_events.md, 70_reset_and_hazards.md)
  /-- R242. -/
  | setInterrupt (h : Nat)
  /-- R243. -/
  | clearInterrupt (h : Nat)
  /-- R244. -/
  | getInterrupt (h : Nat)
  /-- R245. -/
  | setHaltNotification (h : Nat)
  /-- R246. -/
  | clearHaltNotification (h : Nat)
  /-- R247. -/
  | getHaltNotification (h : Nat)
  /-- R251. -/
  | actionExecuted
  /-- R252. -/
  | actionFaulted
  /-- R332. -/
  | powerOn
  -- the staged instruction words, executed by a hart (44_staged_instructions.md)
  /-- R273. -/
  | sw (imm : BitVec 12) (rs2 rs1 : BitVec 5)
  /-- R274. -/
  | sd (imm : BitVec 12) (rs2 rs1 : BitVec 5)
  /-- R275. -/
  | lw (imm : BitVec 12) (rs1 rd : BitVec 5)
  /-- R276. -/
  | ld (imm : BitVec 12) (rs1 rd : BitVec 5)
  /-- R277. -/
  | ebreak
  /-- R278; `imm` is the 21-bit byte offset, bit 0 of which is always 0 (R271). -/
  | jal (imm : BitVec 21)
  deriving DecidableEq, Repr

/-- A request as it reaches the block, one constructor per format of the opcode table (R129). -/
inductive Packet where
  /-- R110: a DMI transaction; the address is a natural number (R81), the data is ignored on a read. -/
  | dmi (write : Bool) (address : Nat) (data : Word32)
  /-- R119, R121: the DMI write of a word to `command`, told apart by the class of the word (log 4). -/
  | command (c : Word32)
  /-- R111: `load(off, len)`. -/
  | load (off len : Nat)
  /-- R111: `store(off, len, bytes)`, where `len` is the number of bytes (R226). -/
  | store (off : Nat) (bytes : List Byte)
  /-- R112: an EVT or OWN operation by its tag, with the hart id operand where it has one. -/
  | event (tag : BitVec 4) (h : Nat)
  /-- R123: an instruction word that a hart has fetched. -/
  | hart (w : Word32)
  deriving DecidableEq, Repr

end Sys2Proof
end

