-- ==== Sys2Proof/Decode.lean ====
section
/-! DEFINITION. Decoding of requests (30_encoding.md, 44_staged_instructions.md), total on every packet, and after it the
encoder. A packet that is none of the table's rows decodes to `none`; `rejectPacket` (Machine/Ops.lean) says what then happens. -/

namespace Sys2Proof

/-! ## DMI headers (R81, R110) -/

/-- R81: the register a DMI address names, read or written. The header `hdr` of R110 packs the direction above the 7-bit address. -/
def decodeDmiHeader (hdr : BitVec 8) (v : Word32) : Option Instr :=
  match hdr.toNat with
  | 0x04 => some .dmiReadData0
  | 0x84 => some (.dmiWriteData0 v)
  | 0x05 => some .dmiReadData1
  | 0x85 => some (.dmiWriteData1 v)
  | 0x06 => some .dmiReadData2
  | 0x86 => some (.dmiWriteData2 v)
  | 0x07 => some .dmiReadData3
  | 0x87 => some (.dmiWriteData3 v)
  | 0x08 => some .dmiReadData4
  | 0x88 => some (.dmiWriteData4 v)
  | 0x09 => some .dmiReadData5
  | 0x89 => some (.dmiWriteData5 v)
  | 0x0A => some .dmiReadData6
  | 0x8A => some (.dmiWriteData6 v)
  | 0x0B => some .dmiReadData7
  | 0x8B => some (.dmiWriteData7 v)
  | 0x10 => some .dmiReadDmcontrol
  | 0x90 => some (.dmiWriteDmcontrol v)
  | 0x16 => some .dmiReadAbstractcs
  | 0x96 => some (.dmiWriteAbstractcs v)
  | 0x17 => some .dmiReadCommand
  | 0x97 => some (.dmiWriteCommand v)
  | 0x20 => some .dmiReadProgbuf0
  | 0xA0 => some (.dmiWriteProgbuf0 v)
  | 0x21 => some .dmiReadProgbuf1
  | 0xA1 => some (.dmiWriteProgbuf1 v)
  | 0x22 => some .dmiReadProgbuf2
  | 0xA2 => some (.dmiWriteProgbuf2 v)
  | 0x23 => some .dmiReadProgbuf3
  | 0xA3 => some (.dmiWriteProgbuf3 v)
  | 0x24 => some .dmiReadProgbuf4
  | 0xA4 => some (.dmiWriteProgbuf4 v)
  | 0x25 => some .dmiReadProgbuf5
  | 0xA5 => some (.dmiWriteProgbuf5 v)
  | 0x26 => some .dmiReadProgbuf6
  | 0xA6 => some (.dmiWriteProgbuf6 v)
  | 0x27 => some .dmiReadProgbuf7
  | 0xA7 => some (.dmiWriteProgbuf7 v)
  | _ => none

/-- R110: the 8-bit header of a DMI request whose address fits seven bits. -/
def dmiHeader (write : Bool) (address : Nat) : BitVec 8 :=
  BitVec.ofBool write ++ BitVec.ofNat 7 address

/-- R81, R110: addresses above `0x7F` are unmapped. -/
def decodeDmi (write : Bool) (address : Nat) (v : Word32) : Option Instr :=
  if address < 0x80 then decodeDmiHeader (dmiHeader write address) v else none

/-! ## Command words (R119, R121) -/

/-- R121: the class of a command word with `cmdtype = 0` and `transfer = 1`. `XLEN` is looked at where the class is
performed (R196, R197, log 14). -/
def decodeTransfer (c : Word32) : Instr :=
  let b23 := c.getLsbD 23
  let b19 := c.getLsbD 19
  let postexec := c.getLsbD 18
  let r := c.extractLsb' 0 5
  if c.extractLsb' 5 11 = 0x080#11 then
    if c.extractLsb' 20 3 = 2#3 then
      if c.getLsbD 16 then .arWrite32 b23 b19 postexec r else .arRead32 b23 b19 postexec r
    else if c.extractLsb' 20 3 = 3#3 then
      if c.getLsbD 16 then .arWrite64 b23 b19 postexec r else .arRead64 b23 b19 postexec r
    else .arUnsup (c.extractLsb' 0 24)
  else .arUnsup (c.extractLsb' 0 24)

/-- R121, R129: the row of a command word. Every word has one. -/
def decodeCommand (c : Word32) : Instr :=
  let cmdtype := (c.extractLsb' 24 8).toNat
  if cmdtype = 0 then
    if c.getLsbD 17 then decodeTransfer c
    else if c.getLsbD 18 then .arExec (c.extractLsb' 19 5) (c.extractLsb' 0 17)
    else .arNop (c.extractLsb' 19 5) (c.extractLsb' 0 17)
  else if cmdtype < 2 then .quick (c.extractLsb' 0 24)
  else if cmdtype < 4 then .unknown2_3 (c.extractLsb' 0 25)
  else if cmdtype < 8 then .unknown4_7 (c.extractLsb' 0 26)
  else if cmdtype < 16 then .unknown8_15 (c.extractLsb' 0 27)
  else if cmdtype < 32 then .unknown16_31 (c.extractLsb' 0 28)
  else if cmdtype < 64 then .unknown32_63 (c.extractLsb' 0 29)
  else if cmdtype < 128 then .unknown64_127 (c.extractLsb' 0 30)
  else .unknown128_255 (c.extractLsb' 0 31)

/-! ## BUS headers (R111) -/

/-- R111: the row of a load, by the pattern of its first byte's offset. -/
def decodeLoad (off len : Nat) : Option Instr :=
  if off < 0x10 then some (.loadEntry off len)
  else if off < 0x20 then some (.loadExc off len)
  else if off < 0x40 then some (.loadProgbuf off len)
  else if off < 0x80 then some (.loadCode off len)
  else if off < 0xA0 then some (.loadExch off len)
  else none

/-- R111: the row of a store, by the pattern of its first byte's offset. -/
def decodeStore (off : Nat) (bytes : List Byte) : Option Instr :=
  if off < 0x10 then some (.storeEntry off bytes)
  else if off < 0x20 then some (.storeExc off bytes)
  else if off < 0x40 then some (.storeProgbuf off bytes)
  else if off < 0x80 then some (.storeCode off bytes)
  else if off < 0xA0 then some (.storeExch off bytes)
  else none

/-! ## Event tags (R112) -/

/-- R112: the operation an event tag names. -/
def decodeEvent (tag : BitVec 4) (h : Nat) : Option Instr :=
  match tag.toNat with
  | 0 => some (.setInterrupt h)
  | 1 => some (.clearInterrupt h)
  | 2 => some (.getInterrupt h)
  | 3 => some (.setHaltNotification h)
  | 4 => some (.clearHaltNotification h)
  | 5 => some (.getHaltNotification h)
  | 6 => some .actionExecuted
  | 7 => some .actionFaulted
  | 8 => some .powerOn
  | _ => none

/-! ## Instruction words (R271 to R278) -/

/-- R271: the immediate of an S-type word. -/
def immS (w : Word32) : BitVec 12 := w.extractLsb' 25 7 ++ w.extractLsb' 7 5

/-- R271: the immediate of an I-type word. -/
def immI (w : Word32) : BitVec 12 := w.extractLsb' 20 12

/-- R271: the 21-bit immediate of a J-type word; bit 0 is always 0. -/
def immJ (w : Word32) : BitVec 21 :=
  w.extractLsb' 31 1 ++ w.extractLsb' 12 8 ++ w.extractLsb' 20 1 ++ w.extractLsb' 21 10 ++ 0#1

/-- R273 to R278: the row of an instruction word, by opcode and `funct3`; the whole word for EBREAK, opcode and `rd = 0` for JAL. -/
def decodeHart (w : Word32) : Option Instr :=
  if w = 0x00100073#32 then some .ebreak
  else if w.extractLsb' 0 12 = 0x06F#12 then some (.jal (immJ w))
  else if w.extractLsb' 0 7 = 0x23#7 then
    if w.extractLsb' 12 3 = 2#3 then some (.sw (immS w) (w.extractLsb' 20 5) (w.extractLsb' 15 5))
    else if w.extractLsb' 12 3 = 3#3 then some (.sd (immS w) (w.extractLsb' 20 5) (w.extractLsb' 15 5))
    else none
  else if w.extractLsb' 0 7 = 0x03#7 then
    if w.extractLsb' 12 3 = 2#3 then some (.lw (immI w) (w.extractLsb' 15 5) (w.extractLsb' 7 5))
    else if w.extractLsb' 12 3 = 3#3 then some (.ld (immI w) (w.extractLsb' 15 5) (w.extractLsb' 7 5))
    else none
  else none

/-! ## The decoder -/

/-- The instruction a request stands for; `none` where the table has no row for it. -/
def decode : Packet → Option Instr
  | .dmi write address data => decodeDmi write address data
  | .command c => some (decodeCommand c)
  | .load off len => decodeLoad off len
  | .store off bytes => decodeStore off bytes
  | .event tag h => decodeEvent tag h
  | .hart w => decodeHart w

/-! ## The encoder -/

/-- R119: a command word of class `AR.READ32` to `AR.WRITE64`, field by field from bit 31 down. -/
def transferWord (size : BitVec 3) (write b23 b19 postexec : Bool) (r : BitVec 5) : Word32 :=
  0#8 ++ BitVec.ofBool b23 ++ size ++ BitVec.ofBool b19 ++ BitVec.ofBool postexec ++ 1#1 ++ BitVec.ofBool write ++ 0x080#11 ++ r

/-- R119: a command word with `cmdtype = 0` and `transfer = 0`. -/
def executeWord (postexec : Bool) (hi : BitVec 5) (lo : BitVec 17) : Word32 :=
  0#8 ++ hi ++ BitVec.ofBool postexec ++ 0#1 ++ lo

/-- R271, S-type with `funct3 = f3`. -/
def sTypeWord (imm : BitVec 12) (rs2 rs1 : BitVec 5) (f3 : BitVec 3) : Word32 :=
  imm.extractLsb' 5 7 ++ rs2 ++ rs1 ++ f3 ++ imm.extractLsb' 0 5 ++ 0x23#7

/-- R271, I-type load with `funct3 = f3`. -/
def iTypeWord (imm : BitVec 12) (rs1 rd : BitVec 5) (f3 : BitVec 3) : Word32 :=
  imm ++ rs1 ++ f3 ++ rd ++ 0x03#7

/-- R271, R278: J-type with `rd = x0`. -/
def jalWord (imm : BitVec 21) : Word32 :=
  imm.extractLsb' 20 1 ++ imm.extractLsb' 1 10 ++ imm.extractLsb' 11 1 ++ imm.extractLsb' 12 8 ++ 0#5 ++ 0x6F#7

/-- R277. -/
def ebreakWord : Word32 := 0x00100073#32

/-- The request that carries an instruction, written from the same tables; ignored DMI read data is 0. -/
def encode : Instr → Packet
  | .dmiReadData0 => .dmi false 0x04 0#32
  | .dmiWriteData0 v => .dmi true 0x04 v
  | .dmiReadData1 => .dmi false 0x05 0#32
  | .dmiWriteData1 v => .dmi true 0x05 v
  | .dmiReadData2 => .dmi false 0x06 0#32
  | .dmiWriteData2 v => .dmi true 0x06 v
  | .dmiReadData3 => .dmi false 0x07 0#32
  | .dmiWriteData3 v => .dmi true 0x07 v
  | .dmiReadData4 => .dmi false 0x08 0#32
  | .dmiWriteData4 v => .dmi true 0x08 v
  | .dmiReadData5 => .dmi false 0x09 0#32
  | .dmiWriteData5 v => .dmi true 0x09 v
  | .dmiReadData6 => .dmi false 0x0A 0#32
  | .dmiWriteData6 v => .dmi true 0x0A v
  | .dmiReadData7 => .dmi false 0x0B 0#32
  | .dmiWriteData7 v => .dmi true 0x0B v
  | .dmiReadDmcontrol => .dmi false 0x10 0#32
  | .dmiWriteDmcontrol v => .dmi true 0x10 v
  | .dmiReadAbstractcs => .dmi false 0x16 0#32
  | .dmiWriteAbstractcs v => .dmi true 0x16 v
  | .dmiReadCommand => .dmi false 0x17 0#32
  | .dmiWriteCommand v => .dmi true 0x17 v
  | .dmiReadProgbuf0 => .dmi false 0x20 0#32
  | .dmiWriteProgbuf0 v => .dmi true 0x20 v
  | .dmiReadProgbuf1 => .dmi false 0x21 0#32
  | .dmiWriteProgbuf1 v => .dmi true 0x21 v
  | .dmiReadProgbuf2 => .dmi false 0x22 0#32
  | .dmiWriteProgbuf2 v => .dmi true 0x22 v
  | .dmiReadProgbuf3 => .dmi false 0x23 0#32
  | .dmiWriteProgbuf3 v => .dmi true 0x23 v
  | .dmiReadProgbuf4 => .dmi false 0x24 0#32
  | .dmiWriteProgbuf4 v => .dmi true 0x24 v
  | .dmiReadProgbuf5 => .dmi false 0x25 0#32
  | .dmiWriteProgbuf5 v => .dmi true 0x25 v
  | .dmiReadProgbuf6 => .dmi false 0x26 0#32
  | .dmiWriteProgbuf6 v => .dmi true 0x26 v
  | .dmiReadProgbuf7 => .dmi false 0x27 0#32
  | .dmiWriteProgbuf7 v => .dmi true 0x27 v
  | .arRead32 b23 b19 p r => .command (transferWord 2#3 false b23 b19 p r)
  | .arWrite32 b23 b19 p r => .command (transferWord 2#3 true b23 b19 p r)
  | .arRead64 b23 b19 p r => .command (transferWord 3#3 false b23 b19 p r)
  | .arWrite64 b23 b19 p r => .command (transferWord 3#3 true b23 b19 p r)
  | .arExec hi lo => .command (executeWord true hi lo)
  | .arNop hi lo => .command (executeWord false hi lo)
  | .arUnsup low => .command (0#8 ++ low)
  | .quick low => .command (1#8 ++ low)
  | .unknown2_3 low => .command (1#7 ++ low)
  | .unknown4_7 low => .command (1#6 ++ low)
  | .unknown8_15 low => .command (1#5 ++ low)
  | .unknown16_31 low => .command (1#4 ++ low)
  | .unknown32_63 low => .command (1#3 ++ low)
  | .unknown64_127 low => .command (1#2 ++ low)
  | .unknown128_255 low => .command (1#1 ++ low)
  | .loadEntry off len => .load off len
  | .loadExc off len => .load off len
  | .loadProgbuf off len => .load off len
  | .loadCode off len => .load off len
  | .loadExch off len => .load off len
  | .storeEntry off bytes => .store off bytes
  | .storeExc off bytes => .store off bytes
  | .storeProgbuf off bytes => .store off bytes
  | .storeCode off bytes => .store off bytes
  | .storeExch off bytes => .store off bytes
  | .setInterrupt h => .event 0#4 h
  | .clearInterrupt h => .event 1#4 h
  | .getInterrupt h => .event 2#4 h
  | .setHaltNotification h => .event 3#4 h
  | .clearHaltNotification h => .event 4#4 h
  | .getHaltNotification h => .event 5#4 h
  | .actionExecuted => .event 6#4 0
  | .actionFaulted => .event 7#4 0
  | .powerOn => .event 8#4 0
  | .sw imm rs2 rs1 => .hart (sTypeWord imm rs2 rs1 2#3)
  | .sd imm rs2 rs1 => .hart (sTypeWord imm rs2 rs1 3#3)
  | .lw imm rs1 rd => .hart (iTypeWord imm rs1 rd 2#3)
  | .ld imm rs1 rd => .hart (iTypeWord imm rs1 rd 3#3)
  | .ebreak => .hart ebreakWord
  | .jal imm => .hart (jalWord imm)

/-! ## The opcode table's numbering -/

/-- The request that the opcode table's number `w` of `nbits` bits stands for, every operand outside the number zero
(log 5). The table numbers five formats apart (R129) and the number alone does not say which: with 8 bits, 0 to 8 are
event tags (R112) and the rest DMI headers (R110); with up to 16 bits it is a BUS header (R111); with more it is an
instruction word where R273 to R278 give it one, else a command word (R119). -/
def tablePacket (nbits w : Nat) : Packet :=
  if nbits ≤ 8 then
    if w ≤ 8 then .event (BitVec.ofNat 4 w) 0 else .dmi (w.testBit 7) (w % 0x80) 0#32
  else if nbits ≤ 16 then
    if w.testBit 8 then .store (w % 0x100) [] else .load (w % 0x100) 0
  else if (decodeHart (BitVec.ofNat 32 w)).isSome then .hart (BitVec.ofNat 32 w)
  else .command (BitVec.ofNat 32 w)

/-- The instruction the decoder reads from a number of the opcode table. -/
def decodeTableWord (nbits w : Nat) : Option Instr :=
  decode (tablePacket nbits w)

end Sys2Proof
end

