-- ==== Sys2Proof/Config.lean ====
section
/-! DEFINITION. The constants and parameters of 00_scope.md R11 and R12, and the free values (opaque, no body) for
what the spec leaves without a value. A parameter marked OPEN by R11 is a field of `Params`, the argument of the model. -/

namespace Sys2Proof

/-! ## Constants the spec fixes (R11, R12) -/

/-- R11: capacity of the per-hart halt table. -/
abbrev Config.maxHarts : Nat := 1024
/-- R12: size in bytes of the mapped BUS region. -/
abbrev Config.busSize : Nat := 0xA0
/-- R11: BUS offset of the program buffer. -/
abbrev Config.progbufOff : Nat := 0x20
/-- R11: BUS offset of the exchange buffer. -/
abbrev Config.exchOff : Nat := 0x80

/-! ## Parameters: those the spec leaves OPEN (R11), and `DM_BASE`, which it leaves to the platform (R92) -/

/-- R11, D15: `XLEN`, the register width of the harts. -/
inductive Xlen where
  | x32
  | x64
  deriving DecidableEq, Repr, Inhabited

/-- R11, D18: the three values `CMDERR_NOHART` may take. -/
inductive NoHartCode where
  | exception
  | haltresume
  | other
  deriving DecidableEq, Repr, Inhabited

/-- Log 23: what the reserved bits of the recorded command word read as, on which the rules of the spec disagree. -/
inductive ReservedCommandBits where
  /-- R125 (c), D42: they read as 0. -/
  | zero
  /-- R147, R45, D19: `last_command` is returned as it was recorded. -/
  | recorded
  deriving DecidableEq, Repr, Inhabited

/-- The parameters of R11 and R92 that are the argument of the model: fixed for one instance, changed by no step.
`EXCH_INIT` is not here: it is a free value drawn at each power-on (R332, U15). -/
structure Params where
  /-- `NHARTS`: harts `0 .. NHARTS-1` exist; at most `MAX_HARTS` (D37, U12). -/
  nharts : Fin 1025
  /-- `XLEN` (D15, U13). -/
  xlen : Xlen
  /-- `CMDERR_NOHART` (D18, U3). -/
  noHart : NoHartCode
  /-- R92, R12, U17: `DM_BASE` is 64 times this number, so each region is aligned to its size and `EXCH_ABS + 8 <= 0x800`.
  R11 takes 4, that is 0x100 (log 19). -/
  dmBlock : Fin 30
  /-- DESIGN CHOICE, log 23: the clash of R125 (c) with R147, which no rule settles, is left open. -/
  reservedCommandBits : ReservedCommandBits
  /-- `ROM_ENTRY_TEMPLATE`, 4 words (D29, U16). -/
  romEntry : Vector Word32 4
  /-- `ROM_EXC_IMAGE`, 4 words (D29, U16). -/
  romExc : Vector Word32 4
  /-- `ROM_CODE_IMAGE`, 16 words (D29, U16). -/
  romCode : Vector Word32 16
  deriving DecidableEq, Repr, Inhabited

/-- R282: the reference ROM image, which the spec uses in its examples only, with `DM_BASE = 0x100` (R11) and the other parameters
given. -/
def Params.withReferenceRom (nharts : Fin 1025) (xlen : Xlen) (noHart : NoHartCode) (reserved : ReservedCommandBits) :
    Params where
  nharts := nharts
  xlen := xlen
  noHart := noHart
  dmBlock := 4
  reservedCommandBits := reserved
  romEntry := #v[0x0400006F#32, 0x00100073#32, 0x00100073#32, 0x00100073#32]
  romExc := Vector.replicate 4 0x0000006F#32
  romCode := Vector.replicate 16 0x0000006F#32

/-! ## Free values -/

/-- The parameters of the instance that `State.reset` stands for: unknown, so nothing can be proved of one choice. -/
opaque Config.params : Params

/-- DESIGN CHOICE, log 2: `EXCH_INIT` of the n-th draw (R332, D36, U15): 32 unspecified bytes. -/
opaque Config.exchInit : Nat → Vector Byte 32

/-- DESIGN CHOICE, log 9: whether the hart's own memory, outside this module (R6), answers an access at an address. -/
opaque Config.platformMapped : Nat → Nat → Bool

/-- DESIGN CHOICE, log 9: the bytes that a load from the hart's own memory, outside this module (R6), returns. -/
opaque Config.platformData : Nat → Nat → BitVec 64

/-- DESIGN CHOICE, log 10: the word of the debug ROM (R48: 4 of entry, 4 of exception, 16 of code) at which a hart stands
after the trap that returns it there (R277, R281 (d)). -/
opaque Config.romReturn : Nat → Fin 24

/-- DESIGN CHOICE, log 10: where a hart's pc goes when it takes a trap of its own, which is outside this spec (R308). -/
opaque Config.trapPc : Nat → XWord

end Sys2Proof
end

