-- ==== Sys2Proof/Machine/State.lean ====
section
/-! DEFINITION. The state of one Debug Module as plain data (10_state.md R30), the collaborators' state that
44_staged_instructions.md names (R16), the model's own fields, the reasons a step can stop, and the state after reset. -/

namespace Sys2Proof.Machine

/-- R42: the six values of `cmderr`. -/
inductive CmdErr where
  | none
  | busy
  | notsup
  | exception
  | haltresume
  | other
  deriving DecidableEq, Repr

/-- R35: the four values of `hartstatus`. -/
inductive HartStatus where
  | halted
  | running
  | unavailable
  | notexist
  deriving DecidableEq, Repr

/-- R37: the values of `authtype`. -/
inductive AuthType where
  | noauth
  | password
  | challenge
  deriving DecidableEq, Repr

/-- R82: the five regions of the BUS offset space. -/
inductive Region where
  | entry
  | exc
  | progbuf
  | code
  | exch
  deriving DecidableEq, Repr

/-- R255: the pulses of the hart control surface. -/
inductive Pulse where
  | resume (h : Nat)
  | hartReset (h : Nat)
  | release (h : Nat)
  deriving DecidableEq, Repr

/-- R55: the staged-action descriptor. -/
structure StagedAction where
  words : List Word32
  hart : Nat
  command : Word32
  deriving DecidableEq, Repr

/-- R16: what a hart that executes staged words has: its pc and `x0 .. x31`, held in 64 bits for either `XLEN` (log 8). -/
structure HartContext where
  pc : XWord
  x : Vector XWord 32
  deriving DecidableEq, Repr

/-- Log 6: the answer of a transaction (R9). Data comes only with `ok = 1` (R291, U18). -/
inductive Response where
  /-- The transaction answers nothing (`action_executed`, `action_faulted`, `power_on`, R292), or there was none yet. -/
  | none
  /-- `ok = 1` without data. -/
  | ok
  /-- `ok = 0`. -/
  | fail
  /-- `ok = 1` and the word read (R110). -/
  | word (v : Word32)
  /-- `ok = 1` and the bytes loaded, lowest offset first (R221). -/
  | bytes (bs : List Byte)
  /-- The answer of a `get` accessor (R244, R247). -/
  | member (b : Bool)
  deriving DecidableEq, Repr

/-- Log 3: what can arrive from outside. R10: any finite sequence, in any interleaving of the ports. -/
inductive Request where
  /-- A transaction of a port. -/
  | packet (p : Packet)
  /-- The execution loop steps hart `h`: the hart fetches the word at its pc and executes it (R258, R281), whether or not an
  interrupt is pending (log 3). -/
  | hartStep (h : Nat)
  /-- The execution loop polls `get_interrupt(h)` before stepping hart `h`, and honours it (R258, R250 steps 2 and 3). -/
  | hartPoll (h : Nat)
  /-- The owner's answers `unavailable(h)` from now on: the `env` line of R127 (R256). -/
  | setUnavailable (hs : List Nat)
  /-- Hart `h` has run code of its own, outside this spec (R6), and left this context (log 8). -/
  | hartRan (h : Nat) (c : HartContext)
  deriving DecidableEq, Repr

/-- Log 15: the bytes of the BUS offset space that differ from what an unlisted offset reads as, offsets strictly rising. -/
abbrev Memory := List Host.Cell

/-- The whole state. INVENTORY.md lists each field with its rule, its width and its reset value. -/
structure State where
  /-- R11, R92: the parameters of the instance; no step changes them (log 1, log 19). -/
  params : Params
  /-- R33. -/
  dmactive : Bool
  /-- R34. -/
  hartsel : BitVec 10
  /-- R37: constant 1. -/
  authenticated : Bool
  /-- R37: constant 0. -/
  authbusy : Bool
  /-- R37: constant NOAUTH. -/
  authtype : AuthType
  /-- R38: constant 1. -/
  version : BitVec 4
  /-- R41: bit N is `autoexecN`. -/
  autoexec : BitVec 8
  /-- R42. -/
  cmderr : CmdErr
  /-- R43. -/
  busy : Bool
  /-- R44: constant 8. -/
  datacount : BitVec 4
  /-- R45. -/
  lastCommand : Word32
  /-- R45. -/
  lastCommandValid : Bool
  /-- R46, R47, R49: `exch`, `progbuf` and `rom_entry` under their BUS offsets (R82, log 15). -/
  mem : Memory
  /-- R52: the halt table, bit h for hart h. -/
  halted : BitVec 1024
  /-- R53: the interrupt set, ids rising. -/
  interrupt : List Nat
  /-- R53: the halt-notification set, ids rising. -/
  haltNotification : List Nat
  /-- R55. -/
  nextAction : Option StagedAction
  /-- R55. -/
  actionExecuted : Bool
  /-- R256, log 7: the harts the owner answers `unavailable` for. -/
  unavailable : List Nat
  /-- R16, log 8: contexts of the harts, by rising id; a hart not listed has every register 0. -/
  harts : List (Nat × HartContext)
  /-- Log 8, the model's own: the hart executing the instruction word at hand. -/
  stepping : Nat
  /-- Log 6, the model's own: the answer of the last transaction. -/
  response : Response
  /-- Log 6, the model's own: the pulses of the last transaction, in the order emitted (R255). -/
  pulses : List Pulse
  /-- Log 3, the model's own: requests not yet taken, oldest first. -/
  pending : List Request
  /-- Log 2, the model's own: `EXCH_INIT` of the last power-on (R332). -/
  exchInit : Vector Byte 32
  /-- Log 2, the model's own: how many free values have been drawn. -/
  freeCount : Nat
  deriving DecidableEq, Repr

/-- The reasons a step can stop with a fault. The block itself has none (R17). -/
inductive Fault where
  /-- Raised by `step` when a hart is stepped whose pc lies outside `DM_BASE .. DM_BASE + 0x9F`: the hart fetches from its
  own memory, which this spec leaves out (R6, log 17). Safe: the model stops where the platform goes on. -/
  | fetchOutsideModule
  deriving DecidableEq, Repr

/-- The reasons a request is refused. The block itself has none (R17). -/
inductive Refusal where
  /-- Raised by `exec`'s arm of an instruction that has no meaning yet. Safe: nothing is claimed of it. -/
  | notModelled (mnemonic : String)
  /-- Raised by `rejectPacket` for an event tag that names no operation of R112. Safe: no port can carry it. -/
  | noSuchEvent
  /-- Raised by `rejectPacket` for an instruction word that is none of the six of R270: the harts' instruction set is not
  in this spec (R6, log 17). Safe: the model stops where the hart goes on. -/
  | otherHartInstruction
  deriving DecidableEq, Repr

/-- R59, R332: the state after `power_on`, which is the initial state of a run (U19), of an instance with R11's `DM_BASE`. -/
def State.reset : State where
  params := { Config.params with dmBlock := 4 }
  dmactive := false
  hartsel := 0#10
  authenticated := true
  authbusy := false
  authtype := .noauth
  version := 1#4
  autoexec := 0#8
  cmderr := .none
  busy := false
  datacount := 8#4
  lastCommand := 0#32
  lastCommandValid := false
  mem := []
  halted := 0#1024
  interrupt := []
  haltNotification := []
  nextAction := Option.none
  actionExecuted := false
  unavailable := []
  harts := []
  stepping := 0
  response := .none
  pulses := []
  pending := []
  exchInit := Config.exchInit 0
  freeCount := 1

end Sys2Proof.Machine
end

