-- ==== Sys2Proof/Machine/Flags.lean ====
section
/-! DEFINITION. The numeric codes of the enumerated fields and the rule that clears `cmderr` (30_encoding.md R114, R117, R118). -/

namespace Sys2Proof.Machine

/-- R114: codes of `hartstatus`, in the document's order. -/
def hartStatusCode : HartStatus → BitVec 2
  | .halted => 0#2
  | .running => 1#2
  | .unavailable => 2#2
  | .notexist => 3#2

/-- R114: codes of `authtype`. -/
def authTypeCode : AuthType → BitVec 2
  | .noauth => 0#2
  | .password => 1#2
  | .challenge => 2#2

/-- R117: codes of `cmderr`; 5 and 6 are never held. -/
def cmderrCode : CmdErr → BitVec 3
  | .none => 0#3
  | .busy => 1#3
  | .notsup => 2#3
  | .exception => 3#3
  | .haltresume => 4#3
  | .other => 7#3

/-- R118: `cmderr` after a write of `abstractcs` with clear mask `w`: cleared when every 1 bit of its code is written 1. -/
def clearedCmderr (e : CmdErr) (w : BitVec 3) : CmdErr :=
  if cmderrCode e &&& ~~~w = 0#3 then .none else e

/-- R11, R185: the `cmderr` value that `CMDERR_NOHART` stands for. -/
def noHartError : NoHartCode → CmdErr
  | .exception => .exception
  | .haltresume => .haltresume
  | .other => .other

end Sys2Proof.Machine
end

