-- ==== Sys2Proof/Machine/Ops.lean ====
section
/-! DEFINITION. The shared operations of the machine: byte storage, the halt table and the two sets, `Sync()`, the frame of
a transaction, `reset()`, the BUS accesses, completion of a staged action, the harts' contexts, and the exception of
staged code with the two ways back from it. -/

namespace Sys2Proof.Machine

/-! ## Byte storage (R82, R85, R86; log 15) -/

/-- R85: byte `o` of a little-endian word image. -/
def imageByte (ws : List Word32) (o : Nat) : Byte :=
  (ws.getD (o / 4) 0#32).extractLsb' (8 * (o % 4)) 8

/-- What a BUS offset that `mem` does not list reads as: the ROM images, zero for the program buffer (R330), the bytes of
`EXCH_INIT` for the exchange buffer (R332). -/
def unlisted (s : State) (off : Nat) : Byte :=
  if off < 0x10 then imageByte s.params.romEntry.toList off
  else if off < 0x20 then imageByte s.params.romExc.toList (off - 0x10)
  else if off < 0x40 then 0#8
  else if off < 0x80 then imageByte s.params.romCode.toList (off - 0x40)
  else s.exchInit.toList.getD (off - 0x80) 0#8

/-- The entry of a list of pairs for a key. -/
def lookupKey {α : Type} (l : List (Nat × α)) (k : Nat) : Option α :=
  match l with
  | [] => none
  | (j, v) :: rest => if j = k then some v else lookupKey rest k

/-- The list with the entry for a key replaced or put in its place, keys rising. -/
def putKey {α : Type} (l : List (Nat × α)) (k : Nat) (v : α) : List (Nat × α) :=
  match l with
  | [] => [(k, v)]
  | (j, w) :: rest =>
    if k < j then (k, v) :: (j, w) :: rest
    else if k = j then (k, v) :: rest
    else (j, w) :: putKey rest k v

/-- The list without the entry for a key. -/
def dropKey {α : Type} (l : List (Nat × α)) (k : Nat) : List (Nat × α) :=
  l.filter (fun c => !decide (c.1 = k))

/-- One byte at a BUS offset. -/
def readByte (s : State) (off : Nat) : Byte :=
  (lookupKey s.mem off).getD (unlisted s off)

/-- The cells after a byte is written at a BUS offset; writing what an unlisted offset reads as removes the entry. -/
def storeCell (s : State) (m : Memory) (off : Nat) (v : Byte) : Memory :=
  if v = unlisted s off then dropKey m off else putKey m off v

/-- The cells after bytes are written from a BUS offset upwards. -/
def storeCells (s : State) (m : Memory) (off : Nat) (bs : List Byte) : Memory :=
  match bs with
  | [] => m
  | b :: rest => storeCells s (storeCell s m off b) (off + 1) rest

/-- The offsets whose bytes are state: the entry region, the program buffer and the exchange buffer (R82). -/
def listable (off : Nat) : Bool :=
  decide (off < 0x10) || (decide (0x20 ≤ off) && decide (off < 0x40)) || (decide (0x80 ≤ off) && decide (off < 0xA0))

/-- The keys of a list of pairs rise strictly. -/
def keysRise {α : Type} (l : List (Nat × α)) : Bool :=
  match l with
  | [] => true
  | (j, _) :: rest => rest.all (fun c => decide (j < c.1)) && keysRise rest

/-- Log 15: the canonical form. Offsets rise strictly, each is one whose byte is state, and no cell equals what its offset
reads as when it is not listed; so equal memories are equal data. -/
def Memory.wf (s : State) (m : Memory) : Bool :=
  keysRise m && m.all (fun c => listable c.1 && !decide (c.2 = unlisted s c.1))

/-- `n` bytes from a BUS offset upwards. -/
def readBytes (s : State) (off n : Nat) : List Byte :=
  (List.range n).map (fun i => readByte s (off + i))

/-- Bytes written from a BUS offset upwards. -/
def writeBytes (s : State) (off : Nat) (bs : List Byte) : State :=
  { s with mem := storeCells s s.mem off bs }

/-- R85: the `n` lowest bytes of a value, lowest first. -/
def littleEndian {w : Nat} (n : Nat) (v : BitVec w) : List Byte :=
  (List.range n).map (fun i => v.extractLsb' (8 * i) 8)

/-- R85: the value of bytes, lowest first. -/
def ofLittleEndian (bs : List Byte) : XWord :=
  match bs with
  | [] => 0
  | b :: rest => b.setWidth 64 ||| (ofLittleEndian rest <<< 8)

/-- R16, R85: `read32`. -/
def read32 (s : State) (off : Nat) : Word32 :=
  readByte s (off + 3) ++ readByte s (off + 2) ++ readByte s (off + 1) ++ readByte s off

/-- R16, R85: `write32`. -/
def write32 (s : State) (off : Nat) (v : Word32) : State :=
  writeBytes s off (littleEndian 4 v)

/-- R251, R330: the entry region back at its template. -/
def restoreEntry (s : State) : State :=
  { s with mem := s.mem.filter (fun c => decide (0x10 ≤ c.1)) }

/-- R330: every byte of the program buffer 0. -/
def zeroProgbuf (s : State) : State :=
  { s with mem := s.mem.filter (fun c => !(decide (0x20 ≤ c.1) && decide (c.1 < 0x40))) }

/-! ## The halt table, the sets, the status of a hart (R36, R52 to R54) -/

/-- The set with an id added, ids rising. -/
def insertId (l : List Nat) (h : Nat) : List Nat :=
  match l with
  | [] => [h]
  | j :: rest => if h < j then h :: j :: rest else if h = j then j :: rest else j :: insertId rest h

/-- The set without an id. -/
def removeId (l : List Nat) (h : Nat) : List Nat :=
  l.filter (fun j => !decide (j = h))

/-- R256: `exists(h)`. -/
def hartExists (s : State) (h : Nat) : Bool :=
  decide (h < s.params.nharts.val)

/-- R256: `unavailable(h)`, the owner's answer. -/
def hartUnavailable (s : State) (h : Nat) : Bool :=
  s.unavailable.contains h

/-- R52: `S.halted[h]`. -/
def isHalted (s : State) (h : Nat) : Bool :=
  s.halted.getLsbD h

/-- R53, R255: the level output `debug_interrupt(h)`. -/
def debugInterrupt (s : State) (h : Nat) : Bool :=
  s.interrupt.contains h

/-- R52: `S.halted[h] <- b`. -/
def setHalted (h : Nat) (b : Bool) (s : State) : State :=
  { s with halted := if b then s.halted ||| BitVec.twoPow 1024 h else s.halted &&& ~~~(BitVec.twoPow 1024 h) }

/-- R242: `S.interrupt <- S.interrupt + {h}`. -/
def addInterrupt (h : Nat) (s : State) : State :=
  { s with interrupt := insertId s.interrupt h }

/-- R243: `S.interrupt <- S.interrupt - {h}`. -/
def dropInterrupt (h : Nat) (s : State) : State :=
  { s with interrupt := removeId s.interrupt h }

/-- R245: `S.halt_notification <- S.halt_notification + {h}`. -/
def addNotification (h : Nat) (s : State) : State :=
  { s with haltNotification := insertId s.haltNotification h }

/-- R246: `S.halt_notification <- S.halt_notification - {h}`. -/
def dropNotification (h : Nat) (s : State) : State :=
  { s with haltNotification := removeId s.haltNotification h }

/-- R36: `hartstatus(h)`. -/
def hartStatus (s : State) (h : Nat) : HartStatus :=
  if !hartExists s h then .notexist
  else if hartUnavailable s h then .unavailable
  else if isHalted s h then .halted
  else .running

/-- R249: the halt table after one notification is folded into it; an id that does not exist is discarded. -/
def foldHalted (s : State) (table : BitVec 1024) (h : Nat) : BitVec 1024 :=
  if hartExists s h then table ||| BitVec.twoPow 1024 h else table

/-- R249: the interrupt set after one notification is folded: an existing hart's request has been honoured. -/
def foldInterrupt (s : State) (set : List Nat) (h : Nat) : List Nat :=
  if hartExists s h then removeId set h else set

/-- R249: `Sync()`. Every pending notification is folded, and the notification set is emptied. -/
def sync (s : State) : State :=
  { s with
    halted := s.haltNotification.foldl (foldHalted s) s.halted
    interrupt := s.haltNotification.foldl (foldInterrupt s) s.interrupt
    haltNotification := [] }

/-! ## The frame of a transaction (R9, R140, R255; log 6) -/

/-- A transaction starts with no pulse emitted. -/
def clearPulses (s : State) : State :=
  { s with pulses := [] }

/-- R15: `emit`. -/
def emit (p : Pulse) (s : State) : State :=
  { s with pulses := s.pulses ++ [p] }

/-- The transaction answers. -/
def respond (r : Response) (s : State) : State :=
  { s with response := r }

/-- R296: `S.cmderr <- e`. -/
def setCmderr (e : CmdErr) (s : State) : State :=
  { s with cmderr := e }

/-- R140: a DMI read of a mapped register, whose value is computed after `Sync()`. -/
def dmiRead (value : State → Word32) (s : State) : State :=
  let s1 := sync (clearPulses s)
  respond (.word (value s1)) s1

/-- R140: a DMI write of a mapped register, whose effect comes after `Sync()`; it always returns `ok = 1` (R156). -/
def dmiWrite (effect : State → State) (s : State) : State :=
  respond .ok (effect (sync (clearPulses s)))

/-- R140, R153: a DMI access to an unmapped address: `Sync()`, then `fail`. -/
def dmiFail (s : State) : State :=
  respond .fail (sync (clearPulses s))

/-! ## reset() and power-on (R330, R332) -/

/-- R330: `reset()`. The exchange buffer and the constant fields keep their values and no pulse is emitted. -/
def moduleReset (s : State) : State :=
  { restoreEntry (zeroProgbuf s) with
    dmactive := false
    hartsel := 0#10
    autoexec := 0#8
    cmderr := .none
    busy := false
    lastCommand := 0#32
    lastCommandValid := false
    halted := 0#1024
    interrupt := []
    haltNotification := []
    nextAction := none
    actionExecuted := false }

/-- R332: `S.exch[0..31] <- EXCH_INIT`, unspecified bytes drawn anew (log 2). -/
def drawExchange (s : State) : State :=
  { s with
    mem := s.mem.filter (fun c => decide (c.1 < 0x80))
    exchInit := Config.exchInit s.freeCount
    freeCount := s.freeCount + 1 }

/-! ## The device bus (R220 to R235) -/

/-- R220: the BUS offset at which a region starts. -/
def regionBase : Region → Nat
  | .entry => 0x00
  | .exc => 0x10
  | .progbuf => 0x20
  | .code => 0x40
  | .exch => 0x80

/-- R220: the size of a region in bytes. -/
def regionSize : Region → Nat
  | .entry => 0x10
  | .exc => 0x10
  | .progbuf => 0x20
  | .code => 0x40
  | .exch => 0x20

/-- R11, R92: `DM_BASE`, the absolute address at which BUS offset 0 appears. -/
def dmBase (p : Params) : Nat := 64 * p.dmBlock.val

/-- R12: where a released hart fetches. -/
def entryAbs (p : Params) : Nat := dmBase p + regionBase .entry

/-- R12: where a hart lands when staged code faults. -/
def excAbs (p : Params) : Nat := dmBase p + regionBase .exc

/-- R12: the target of the staged jump. -/
def progbufAbs (p : Params) : Nat := dmBase p + regionBase .progbuf

/-- R12: the ROM code region as harts see it. -/
def codeAbs (p : Params) : Nat := dmBase p + regionBase .code

/-- R12: the exchange buffer as harts see it. -/
def exchAbs (p : Params) : Nat := dmBase p + regionBase .exch

/-- R226: the ROM regions are read-only. -/
def regionWritable : Region → Bool
  | .entry => false
  | .exc => false
  | .progbuf => true
  | .code => false
  | .exch => true

/-- R88: the whole range lies inside the region, in natural numbers. -/
def regionHolds (off len : Nat) (r : Region) : Bool :=
  decide (regionBase r ≤ off) && decide (off + len ≤ regionBase r + regionSize r)

/-- R220: the region that serves an access, if one does. -/
def regionOf (off len : Nat) : Option Region :=
  if len = 0 then none
  else [Region.entry, Region.exc, Region.progbuf, Region.code, Region.exch].find? (regionHolds off len)

/-- R221, R234: `load(off, len)` served by one given region, else `fail`. -/
def busLoadFrom (r : Region) (off len : Nat) (s : State) : State :=
  if regionOf off len = some r then respond (.bytes (readBytes s off len)) s else respond .fail s

/-- R226, R234: `store(off, len, bytes)` served by one given region, else `fail`; a ROM region refuses it. -/
def busStoreTo (r : Region) (off : Nat) (bs : List Byte) (s : State) : State :=
  if regionOf off bs.length = some r ∧ regionWritable r then respond .ok (writeBytes s off bs) else respond .fail s

/-- R221: `load(off, len)` over all regions, as a hart's access is served. -/
def busLoad (off len : Nat) (s : State) : State :=
  match regionOf off len with
  | some r => busLoadFrom r off len s
  | none => respond .fail s

/-- R226: `store(off, len, bytes)` over all regions, as a hart's access is served. -/
def busStore (off : Nat) (bs : List Byte) (s : State) : State :=
  match regionOf off bs.length with
  | some r => busStoreTo r off bs s
  | none => respond .fail s

/-- R226: whether a store is served: some region holds it and is writable. -/
def storeServed (off len : Nat) : Bool :=
  match regionOf off len with
  | some r => regionWritable r
  | none => false

/-! ## Completion of a staged action (R251 to R254) -/

/-- R251: `action_executed`; nothing when no action is in flight (R254). -/
def completeExecuted (s : State) : State :=
  if s.busy then { restoreEntry s with actionExecuted := true, busy := false } else s

/-- R252: `action_faulted`; nothing when no action is in flight (R254). -/
def completeFaulted (s : State) : State :=
  if s.busy then setCmderr .exception (completeExecuted s) else s

/-! ## The harts' contexts (R16; log 8) -/

/-- A hart not listed has every register 0 (log 8). -/
def blankContext : HartContext where
  pc := 0
  x := Vector.replicate 32 0

/-- The context of hart `h`. -/
def hartContext (s : State) (h : Nat) : HartContext :=
  (lookupKey s.harts h).getD blankContext

/-- The context of hart `h` replaced. -/
def setContext (h : Nat) (c : HartContext) (s : State) : State :=
  { s with harts := putKey s.harts h c }

/-- A value as a register of `XLEN` bits holds it. -/
def clipXlen (p : Params) (v : XWord) : XWord :=
  match p.xlen with
  | .x32 => (v.setWidth 32).setWidth 64
  | .x64 => v

/-- `x[r]` of hart `h`; `x0` reads as zero (R194, R273). -/
def readX (s : State) (h : Nat) (r : BitVec 5) : XWord :=
  if r = 0#5 then 0 else (hartContext s h).x[r.toNat]'(by have := r.isLt; omega)

/-- `x[r] <- v` of hart `h`; nothing for `r = 0` (R275, R276). -/
def writeX (h : Nat) (r : BitVec 5) (v : XWord) (s : State) : State :=
  if r = 0#5 then s
  else
    let c := hartContext s h
    setContext h { c with x := c.x.set r.toNat (clipXlen s.params v) (by have := r.isLt; omega) } s

/-- The pc of hart `h`. -/
def readPc (s : State) (h : Nat) : XWord :=
  (hartContext s h).pc

/-- R16: `pc <- a` of hart `h`. -/
def setPc (h : Nat) (a : XWord) (s : State) : State :=
  setContext h { hartContext s h with pc := clipXlen s.params a } s

/-- R273: `pc <- pc + 4`. -/
def advancePc (h : Nat) (s : State) : State :=
  setPc h (readPc s h + 4) s

/-- R253, R343: the staged action in flight is this hart's. -/
def carriesAction (s : State) (h : Nat) : Bool :=
  s.busy && s.nextAction.any (fun a => a.hart == h)

/-- R308, log 10: a trap of the hart's own: its pc goes to an address outside this spec, a free value. -/
def losePc (h : Nat) (s : State) : State :=
  setPc h (Config.trapPc s.freeCount) { s with freeCount := s.freeCount + 1 }

/-- R48: the address of a word of the debug ROM: the 8 words of the entry and exception regions, then the 16 of the code. -/
def romAddress (p : Params) (i : Fin 24) : Nat :=
  if i.val < 8 then entryAbs p + 4 * i.val else codeAbs p + 4 * (i.val - 8)

/-- R277, R281 (d), log 10: back to the debug ROM; which of its words, the spec does not say: a free value. -/
def returnToRom (h : Nat) (s : State) : State :=
  setPc h (BitVec.ofNat 64 (romAddress s.params (Config.romReturn s.freeCount))) { s with freeCount := s.freeCount + 1 }

/-- R258: an address the execution loop routes to the BUS port, by its first byte (log 20). -/
def inModule (p : Params) (a : Nat) : Bool :=
  decide (dmBase p ≤ a) && decide (a < dmBase p + Config.busSize)

/-- An address lies in one region as the harts see it (R82). -/
def inRegion (p : Params) (r : Region) (a : Nat) : Bool :=
  decide (dmBase p + regionBase r ≤ a) && decide (a < dmBase p + regionBase r + regionSize r)

/-- R281 (c): hart `h` is in staged or program-buffer code, whether or not it is the hart the action was staged for. The
entry region holds staged words only while an action is in flight (R49). -/
def inStagedCode (s : State) (h : Nat) : Bool :=
  inRegion s.params .progbuf (readPc s h).toNat || (s.busy && inRegion s.params .entry (readPc s h).toNat)

/-- R277, log 10: hart `h` is halted under the debugger: it carries the staged action, the block has it as halted, or it
executes code of the module. -/
def underDebugger (s : State) (h : Nat) : Bool :=
  carriesAction s h || isHalted s h || inModule s.params (readPc s h).toNat

/-! ## The exception of staged code, and the ways back (R252, R277, R281, R301, R308) -/

/-- TAKING AN EXCEPTION. R258, R281 (c): a fault in staged or program-buffer code takes the hart to `EXC_ABS`. When the
hart carries the staged action, the collaborator calls `action_faulted` (R252), which restores the entry region, clears
`busy` and records EXCEPTION; otherwise the block sees nothing (log 12). A fault in other code, on a hart that carries no
action, is a trap of the hart's own (R308, log 10).

DESIGN CHOICE, log 12: R258 and R281 (c) speak of staged and program-buffer code only. The hart that carries the action is
taken to `EXC_ABS`, and its action faults, wherever its pc is, as in the ROM code region after it ran off the program buffer.

DESIGN CHOICE, log 6: a refused access and the event it leads to are two transactions (R290) and one step here; the event
answers nothing, so `response` keeps the answer of the access.

DESIGN CHOICE, log 12: R253 lets the collaborator see the pc reach `EXC_ABS` or see the trap. The model's collaborator sees
the trap, here; it does not watch the pc, so a hart that comes to `EXC_ABS` without a fault (by a JAL, by running on from
the entry region) faults nothing until an `action_faulted` event arrives. -/
def takeException (h : Nat) (s : State) : State :=
  if carriesAction s h then setPc h (BitVec.ofNat 64 (excAbs s.params)) (completeFaulted s)
  else if inStagedCode s h then setPc h (BitVec.ofNat 64 (excAbs s.params)) s
  else losePc h s

/-- RETURNING. R277: the trap of a hart that is halted under the debugger returns it to the debug ROM, at a word the spec
does not name (log 10), and the collaborator calls `action_executed`, once, for the action the hart carries (R253). No `x`
register changes (R281 (d)). Any other hart takes a trap of its own (R308). -/
def trapToDebugRom (h : Nat) (s : State) : State :=
  if underDebugger s h then returnToRom h (if carriesAction s h then completeExecuted s else s) else losePc h s

/-- R302: the return from a recorded command error, the clearing write of `abstractcs`: nothing was saved, so nothing is
restored but `cmderr = NONE`. -/
def clearCommandError (w : BitVec 3) (s : State) : State :=
  setCmderr (clearedCmderr s.cmderr w) s

/-- R250 steps 2 and 3, R258: the execution loop polls `get_interrupt(h)`; on true hart `h` enters debug mode, fetches at
`ENTRY_ABS`, and the loop calls `set_halt_notification(h)`. What the hart saves then the spec does not say (R308, log 8).
`response` is the answer of the last of these transactions (log 6). -/
def honourInterrupt (h : Nat) (s : State) : State :=
  if debugInterrupt s h then addNotification h (setPc h (BitVec.ofNat 64 (entryAbs s.params)) (respond .ok (clearPulses s)))
  else respond (.member false) (clearPulses s)

/-! ## Memory accesses of a hart (R258, R273 to R276)

DESIGN CHOICE, log 21: a hart's address and its pc are not translated (R93), and a hart caches no instruction (R98).
DESIGN CHOICE, log 22: the hart itself asks for no alignment of an address or of its pc; the BUS asks for none (R87). -/

/-- R16, logs 21 and 22: `MemWrite(a, n, bytes)` by hart `h`, then `pc <- pc + 4`; a refused access is an exception (R258).
Outside the module the hart's own memory answers or does not (R6): which is a free value, and the block sees nothing (log
9). -/
def hartStore (h a : Nat) (bs : List Byte) (s : State) : State :=
  if inModule s.params a then
    if storeServed (a - dmBase s.params) bs.length then advancePc h (busStore (a - dmBase s.params) bs s)
    else takeException h (busStore (a - dmBase s.params) bs s)
  else if Config.platformMapped s.freeCount a then advancePc h { respond .none s with freeCount := s.freeCount + 1 }
  else takeException h { respond .none s with freeCount := s.freeCount + 1 }

/-- R16, logs 21 and 22: `x[rd] <- extend (MemRead(a, n))` by hart `h`, then `pc <- pc + 4`; a refused access is an
exception (R258). Outside the module both the outcome and the value are free (log 9). -/
def hartLoad (h a n : Nat) (extend : XWord → XWord) (rd : BitVec 5) (s : State) : State :=
  if inModule s.params a then
    if (regionOf (a - dmBase s.params) n).isSome then
      advancePc h (writeX h rd (extend (ofLittleEndian (readBytes s (a - dmBase s.params) n))) (busLoad (a - dmBase s.params) n s))
    else takeException h (busLoad (a - dmBase s.params) n s)
  else if Config.platformMapped s.freeCount a then
    advancePc h (writeX h rd (extend (Config.platformData s.freeCount a)) { respond .none s with freeCount := s.freeCount + 1 })
  else takeException h { respond .none s with freeCount := s.freeCount + 1 }

/-! ## Fetching (R87, R258, R281) -/

/-- What a hart's fetch at its pc gives. -/
inductive FetchResult where
  | word (w : Word32)
  | refused
  | outside
  deriving DecidableEq, Repr

/-- R87: a hart's instruction fetch is an ordinary BUS load of four bytes at its pc: at that very address, of the bytes that
stand there now (DESIGN CHOICE, log 21), whether or not it is a multiple of 4 (DESIGN CHOICE, log 22). -/
def hartFetch (s : State) (h : Nat) : FetchResult :=
  let a := (readPc s h).toNat
  if inModule s.params a then
    if (regionOf (a - dmBase s.params) 4).isSome then .word (read32 s (a - dmBase s.params)) else .refused
  else .outside

/-- R258: a refused fetch is a failed BUS access and an exception of the hart. -/
def fetchRefused (h : Nat) (s : State) : State :=
  takeException h (respond .fail (clearPulses s))

/-! ## Requests that are no row of the table -/

/-- What a request that decodes to nothing does: an unmapped DMI address fails after `Sync()` (R153); a BUS access outside
the regions fails (R234); the word of zeros is no instruction and is an exception of the hart (R347); any other word and an
event tag without an operation are refused (log 17). Every command word decodes, so the last case is never reached. -/
def rejectPacket (p : Packet) (s : State) : Host.Outcome State Fault Refusal :=
  match p with
  | .dmi _ _ _ => .next (dmiFail s)
  | .load _ _ => .next (respond .fail (clearPulses s))
  | .store _ _ => .next (respond .fail (clearPulses s))
  | .event _ _ => .refused .noSuchEvent
  | .hart w => if w = 0#32 then .next (takeException s.stepping (respond .none (clearPulses s))) else .refused .otherHartInstruction
  | .command _ => .next s

/-- The word placed where hart 0 fetches it: the first word of the program buffer, with the pc of hart 0 there. -/
def placeHartWord (w : Word32) (s : State) : State :=
  setContext 0 { hartContext s 0 with pc := BitVec.ofNat 64 (progbufAbs s.params) } (write32 s Config.progbufOff w)

end Sys2Proof.Machine
end

