-- ==== Sys2Proof/Machine/Bus.lean ====
section
/-! DEFINITION. The device-bus operations (42_device_bus.md): load and store of each of the five regions. No BUS
transaction runs `Sync()` or emits a pulse (R221, R226, R255). -/

namespace Sys2Proof.Machine

/-- R222. -/
def execLoadEntry (off len : Nat) (s : State) : Host.Outcome State Fault Refusal :=
  .next (busLoadFrom .entry off len (clearPulses s))

/-- R223. -/
def execLoadExc (off len : Nat) (s : State) : Host.Outcome State Fault Refusal :=
  .next (busLoadFrom .exc off len (clearPulses s))

/-- R224. -/
def execLoadProgbuf (off len : Nat) (s : State) : Host.Outcome State Fault Refusal :=
  .next (busLoadFrom .progbuf off len (clearPulses s))

/-- R225. -/
def execLoadCode (off len : Nat) (s : State) : Host.Outcome State Fault Refusal :=
  .next (busLoadFrom .code off len (clearPulses s))

/-- R230. -/
def execLoadExch (off len : Nat) (s : State) : Host.Outcome State Fault Refusal :=
  .next (busLoadFrom .exch off len (clearPulses s))

/-- R227: refused, read-only. -/
def execStoreEntry (off : Nat) (bytes : List Byte) (s : State) : Host.Outcome State Fault Refusal :=
  .next (busStoreTo .entry off bytes (clearPulses s))

/-- R228: refused, read-only. -/
def execStoreExc (off : Nat) (bytes : List Byte) (s : State) : Host.Outcome State Fault Refusal :=
  .next (busStoreTo .exc off bytes (clearPulses s))

/-- R231. -/
def execStoreProgbuf (off : Nat) (bytes : List Byte) (s : State) : Host.Outcome State Fault Refusal :=
  .next (busStoreTo .progbuf off bytes (clearPulses s))

/-- R229: refused, read-only. -/
def execStoreCode (off : Nat) (bytes : List Byte) (s : State) : Host.Outcome State Fault Refusal :=
  .next (busStoreTo .code off bytes (clearPulses s))

/-- R232. -/
def execStoreExch (off : Nat) (bytes : List Byte) (s : State) : Host.Outcome State Fault Refusal :=
  .next (busStoreTo .exch off bytes (clearPulses s))

end Sys2Proof.Machine
end

