-- ==== Sys2Proof/Machine/Operands.lean ====
section
/-! DEFINITION. Operand forms (30_encoding.md R124): the words that the control registers read as, the fields of a
`dmcontrol` write and of a command word, the slots, and the operands and immediates of the staged words (R272). -/

namespace Sys2Proof.Machine

/-! ## What the registers read as -/

/-- R113, R141: the value of `dmcontrol`; the request bits and the reserved bits read 0. -/
def dmcontrolWord (s : State) : Word32 :=
  0#1 ++ 0#1 ++ BitVec.ofBool s.dmactive ++ 0#1 ++ hartStatusCode (hartStatus s s.hartsel.toNat) ++ s.hartsel ++ 0#8
    ++ BitVec.ofBool s.authenticated ++ BitVec.ofBool s.authbusy ++ authTypeCode s.authtype ++ s.version

/-- R116, R145: the value of `abstractcs`; the reserved bits read 0. -/
def abstractcsWord (s : State) : Word32 :=
  0#8 ++ s.autoexec ++ 0#3 ++ BitVec.ofBool s.busy ++ 0#1 ++ cmderrCode s.cmderr ++ 0#4 ++ s.datacount

/-- R46, R124: the BUS offset of slot `n` of the exchange buffer. -/
def dataOffset (n : Nat) : Nat := Config.exchOff + 4 * n

/-- R47, R124: the BUS offset of word `n` of the program buffer. -/
def progbufOffset (n : Nat) : Nat := Config.progbufOff + 4 * n

/-! ## Fields of a `dmcontrol` write (R113, R115) -/

/-- Bit 31. -/
def haltreqBit (v : Word32) : Bool := v.getLsbD 31
/-- Bit 30. -/
def resetBit (v : Word32) : Bool := v.getLsbD 30
/-- Bit 29. -/
def dmactiveBit (v : Word32) : Bool := v.getLsbD 29
/-- Bit 28. -/
def resumereqBit (v : Word32) : Bool := v.getLsbD 28
/-- Bits 25:16. -/
def hartselField (v : Word32) : BitVec 10 := v.extractLsb' 16 10

/-! ## Fields of an `abstractcs` write (R116) -/

/-- Bits 23:16. -/
def autoexecField (v : Word32) : BitVec 8 := v.extractLsb' 16 8
/-- Bits 10:8, the clear mask. -/
def clearMask (v : Word32) : BitVec 3 := v.extractLsb' 8 3

/-! ## Fields of a command word (R119) -/

/-- Bits 31:24. -/
def cmdtype (c : Word32) : Nat := (c.extractLsb' 24 8).toNat
/-- Bits 22:20. -/
def size (c : Word32) : Nat := (c.extractLsb' 20 3).toNat
/-- Bit 18. -/
def postexec (c : Word32) : Bool := c.getLsbD 18
/-- Bit 17. -/
def transfer (c : Word32) : Bool := c.getLsbD 17
/-- Bit 16. -/
def write (c : Word32) : Bool := c.getLsbD 16
/-- Bits 15:0. -/
def regno (c : Word32) : Nat := (c.extractLsb' 0 16).toNat
/-- R124: `r = regno - 0x1000`, as a register field. -/
def regIndex (c : Word32) : BitVec 5 := BitVec.ofNat 5 (regno c - 0x1000)

/-- R147: the value of `command`, the word last recorded. Its reserved bits are 23 and 19 of a word with `cmdtype = 0`, the only
one that R119 lays out; whether they read as 0 (R125 (c)) or as recorded (R147) is a parameter (log 23). -/
def commandWord (s : State) : Word32 :=
  match s.params.reservedCommandBits with
  | .recorded => s.lastCommand
  | .zero => if cmdtype s.lastCommand = 0 then s.lastCommand &&& 0xFF77FFFF#32 else s.lastCommand

/-! ## The words the stager writes (R190, R191, R272 to R278) -/

/-- R272, R83: the load and store immediate `A = EXCH_ABS`. -/
def exchImm (p : Params) : BitVec 12 := BitVec.ofNat 12 (exchAbs p)

/-- R273: `SW(r, A)`. -/
def swWord (p : Params) (r : BitVec 5) : Word32 := sTypeWord (exchImm p) r 0#5 2#3
/-- R274: `SD(r, A)`. -/
def sdWord (p : Params) (r : BitVec 5) : Word32 := sTypeWord (exchImm p) r 0#5 3#3
/-- R275: `LW(r, A)`. -/
def lwWord (p : Params) (r : BitVec 5) : Word32 := iTypeWord (exchImm p) 0#5 r 2#3
/-- R276: `LD(r, A)`. -/
def ldWord (p : Params) (r : BitVec 5) : Word32 := iTypeWord (exchImm p) 0#5 r 3#3

/-- R191, R272: the jump in entry word 1, `JAL(0, PROGBUF_ABS - (ENTRY_ABS + 4))`; `DM_BASE` cancels. -/
def jumpFromSecond : Word32 := jalWord (BitVec.ofNat 21 (regionBase .progbuf - (regionBase .entry + 4)))
/-- R191, R272: the jump in entry word 0, `JAL(0, PROGBUF_ABS - ENTRY_ABS)`; `DM_BASE` cancels. -/
def jumpFromFirst : Word32 := jalWord (BitVec.ofNat 21 (regionBase .progbuf - regionBase .entry))

/-- R191: what follows the access instruction. -/
def afterAccess (postexec : Bool) : Word32 := if postexec then jumpFromSecond else ebreakWord

/-- R190: the access instruction of a command word. -/
def accessWord (p : Params) (c : Word32) : Word32 :=
  if write c then (if size c = 2 then lwWord p (regIndex c) else ldWord p (regIndex c))
  else (if size c = 2 then swWord p (regIndex c) else sdWord p (regIndex c))

/-- R191: `compose(c)`. -/
def compose (p : Params) (c : Word32) : List Word32 :=
  if transfer c then [accessWord p c, afterAccess (postexec c)] else [jumpFromFirst]

/-! ## Operands of an instruction word, as a hart takes them -/

/-- R272, log 13: the effective address, base register plus sign-extended immediate, in `XLEN` bits. -/
def effectiveAddress (s : State) (h : Nat) (rs1 : BitVec 5) (imm : BitVec 12) : Nat :=
  (clipXlen s.params (readX s h rs1 + imm.signExtend 64)).toNat

/-- R190, R275: the low 32 bits sign-extended (to `XLEN`, when the register is written). -/
def signExtendWord (v : XWord) : XWord := (v.setWidth 32).signExtend 64

end Sys2Proof.Machine
end

