-- ==== Sys2Proof/Machine/Engine.lean ====
section
/-! DEFINITION. The command engine (41_abstract_commands.md): `perform`, its preconditions, `Stage`, and what each class
of the command word does when it has been accepted. -/

namespace Sys2Proof.Machine

/-- R192: the words written to the entry region, word `i` at offset `4 * i`, each little-endian (R85). -/
def writeEntry (ws : List Word32) (s : State) : State :=
  writeBytes s 0 (ws.flatMap (littleEndian 4))

/-- R281 (a), R258: a released hart fetches at `ENTRY_ABS`; here the execution loop honours `Release` at once (log 11). -/
def release (h : Nat) (s : State) : State :=
  setPc h (BitVec.ofNat 64 (entryAbs s.params)) (emit (.release h) s)

/-- R192: `Stage(c, h)` with its sequence. -/
def stage (words : List Word32) (c : Word32) (h : Nat) (s : State) : State :=
  release h { writeEntry words s with
    nextAction := some { words := words, hart := h, command := c }
    actionExecuted := false
    busy := true }

/-- R181, P3: the command is recorded (R184), its reserved bits with it (R45; `commandWord` for how they read back). -/
def recordCommand (c : Word32) (s : State) : State :=
  { s with lastCommand := c, lastCommandValid := true }

/-- R181: `perform(c)`, in the order P1 to P9. -/
def perform (c : Word32) (s : State) : State :=
  if s.busy then setCmderr .busy s
  else if s.cmderr ≠ .none then s
  else
    let s3 := recordCommand c s
    let h := s3.hartsel.toNat
    if hartStatus s3 h = .notexist then setCmderr (noHartError s3.params.noHart) s3
    else if cmdtype c = 0 ∧ hartStatus s3 h ≠ .halted then setCmderr .haltresume s3
    else if cmdtype c ≠ 0 then setCmderr .notsup s3
    else if transfer c ∧ (regno c < 0x1000 ∨ regno c > 0x101F) then setCmderr .notsup s3
    else if transfer c ∧ ¬(size c = 2 ∨ (size c = 3 ∧ s3.params.xlen = .x64)) then setCmderr .notsup s3
    else if ¬transfer c ∧ ¬postexec c then s3
    else stage (compose s3.params c) c h s3

/-! ## The classes (R194 to R202): what each does once P1 to P5 have passed -/

/-- R194 to R202: the preconditions P1 to P5 of R181, then what the class does with the selected hart. Only commands with
`cmdtype = 0` need a halted hart (R186). -/
def whenAccepted (c : Word32) (needsHalt : Bool) (act : Nat → State → State) (s : State) : State :=
  if s.busy then setCmderr .busy s
  else if s.cmderr ≠ .none then s
  else
    let s3 := recordCommand c s
    let h := s3.hartsel.toNat
    match hartStatus s3 h with
    | .notexist => setCmderr (noHartError s3.params.noHart) s3
    | .halted => act h s3
    | .running => if needsHalt then setCmderr .haltresume s3 else act h s3
    | .unavailable => if needsHalt then setCmderr .haltresume s3 else act h s3

/-- R194, R195: a 32-bit access, staged for either `XLEN`. -/
def access32 (word : Word32) (c : Word32) (postexec : Bool) (s : State) : State :=
  whenAccepted c true (fun h s => stage [word, afterAccess postexec] c h s) s

/-- R196, R197: a 64-bit access, staged when `XLEN = 64`; with `XLEN = 32` the word is of class `AR.UNSUP` (R200). -/
def access64 (word : Word32) (c : Word32) (postexec : Bool) (s : State) : State :=
  whenAccepted c true
    (fun h s =>
      match s.params.xlen with
      | .x64 => stage [word, afterAccess postexec] c h s
      | .x32 => setCmderr .notsup s) s

/-- R200 to R202: the class is refused with NOTSUP. -/
def unsupported (c : Word32) (needsHalt : Bool) (s : State) : State :=
  whenAccepted c needsHalt (fun _ s => setCmderr .notsup s) s

end Sys2Proof.Machine
end

