-- ==== Sys2Proof/Machine/Commands.lean ====
section
/-! DEFINITION. The classes of the command word (41_abstract_commands.md R194 to R202). Each meaning is the DMI write of
`command` with a word of that class (R148, log 4): `Sync()`, the preconditions P1 to P5, then the class's own rule. -/

namespace Sys2Proof.Machine

/-- R194: stages `sw` on `x<r>`, then EBREAK, or the jump when `postexec = 1`. -/
def execArRead32 (b23 b19 postexec : Bool) (r : BitVec 5) (s : State) : Host.Outcome State Fault Refusal :=
  .next (dmiWrite (access32 (swWord s.params r) (transferWord 2#3 false b23 b19 postexec r) postexec) s)

/-- R195: stages `lw` on `x<r>`, then EBREAK, or the jump when `postexec = 1`. -/
def execArWrite32 (b23 b19 postexec : Bool) (r : BitVec 5) (s : State) : Host.Outcome State Fault Refusal :=
  .next (dmiWrite (access32 (lwWord s.params r) (transferWord 2#3 true b23 b19 postexec r) postexec) s)

/-- R196: stages `sd` on `x<r>`, then EBREAK, or the jump when `postexec = 1`. -/
def execArRead64 (b23 b19 postexec : Bool) (r : BitVec 5) (s : State) : Host.Outcome State Fault Refusal :=
  .next (dmiWrite (access64 (sdWord s.params r) (transferWord 3#3 false b23 b19 postexec r) postexec) s)

/-- R197: stages `ld` on `x<r>`, then EBREAK, or the jump when `postexec = 1`. -/
def execArWrite64 (b23 b19 postexec : Bool) (r : BitVec 5) (s : State) : Host.Outcome State Fault Refusal :=
  .next (dmiWrite (access64 (ldWord s.params r) (transferWord 3#3 true b23 b19 postexec r) postexec) s)

/-- R198: stages the jump to the program buffer. -/
def execArExec (hi : BitVec 5) (lo : BitVec 17) (s : State) : Host.Outcome State Fault Refusal :=
  .next (dmiWrite (whenAccepted (executeWord true hi lo) true (stage [jumpFromFirst] (executeWord true hi lo))) s)

/-- R199: recorded, nothing else. -/
def execArNop (hi : BitVec 5) (lo : BitVec 17) (s : State) : Host.Outcome State Fault Refusal :=
  .next (dmiWrite (whenAccepted (executeWord false hi lo) true (fun _ s => s)) s)

/-- R200: NOTSUP, once the hart is halted. -/
def execArUnsup (low : BitVec 24) (s : State) : Host.Outcome State Fault Refusal :=
  .next (dmiWrite (unsupported (0#8 ++ low) true) s)

/-- R201: NOTSUP; no halt needed. -/
def execQuick (low : BitVec 24) (s : State) : Host.Outcome State Fault Refusal :=
  .next (dmiWrite (unsupported (1#8 ++ low) false) s)

/-- R202: NOTSUP; no halt needed. -/
def execUnknown2_3 (low : BitVec 25) (s : State) : Host.Outcome State Fault Refusal :=
  .next (dmiWrite (unsupported (1#7 ++ low) false) s)

/-- R202: NOTSUP; no halt needed. -/
def execUnknown4_7 (low : BitVec 26) (s : State) : Host.Outcome State Fault Refusal :=
  .next (dmiWrite (unsupported (1#6 ++ low) false) s)

/-- R202: NOTSUP; no halt needed. -/
def execUnknown8_15 (low : BitVec 27) (s : State) : Host.Outcome State Fault Refusal :=
  .next (dmiWrite (unsupported (1#5 ++ low) false) s)

/-- R202: NOTSUP; no halt needed. -/
def execUnknown16_31 (low : BitVec 28) (s : State) : Host.Outcome State Fault Refusal :=
  .next (dmiWrite (unsupported (1#4 ++ low) false) s)

/-- R202: NOTSUP; no halt needed. -/
def execUnknown32_63 (low : BitVec 29) (s : State) : Host.Outcome State Fault Refusal :=
  .next (dmiWrite (unsupported (1#3 ++ low) false) s)

/-- R202: NOTSUP; no halt needed. -/
def execUnknown64_127 (low : BitVec 30) (s : State) : Host.Outcome State Fault Refusal :=
  .next (dmiWrite (unsupported (1#2 ++ low) false) s)

/-- R202: NOTSUP; no halt needed. -/
def execUnknown128_255 (low : BitVec 31) (s : State) : Host.Outcome State Fault Refusal :=
  .next (dmiWrite (unsupported (1#1 ++ low) false) s)

end Sys2Proof.Machine
end

