-- ==== Sys2Proof/Machine/Dmi.lean ====
section
/-! DEFINITION. The DMI register operations (40_dmi_registers.md): read and write of each of the 19 registers. -/

namespace Sys2Proof.Machine

/-! ## The shared operations behind the slots and the control registers -/

/-- R149: read of data slot `n`; it never triggers auto-execution. -/
def readSlot (n : Nat) (s : State) : State :=
  dmiRead (fun s => read32 s (dataOffset n)) s

/-- R150: the word is stored first; then, with `autoexec[n]` set and a command recorded, `perform` runs on it (R203). -/
def storeSlot (n : Nat) (v : Word32) (s : State) : State :=
  let s1 := write32 s (dataOffset n) v
  if s1.autoexec.getLsbD n && s1.lastCommandValid then perform s1.lastCommand s1 else s1

/-- R150: write of data slot `n`. -/
def writeSlot (n : Nat) (v : Word32) (s : State) : State :=
  dmiWrite (storeSlot n v) s

/-- R151: read of program-buffer word `n`. -/
def readProgbufWord (n : Nat) (s : State) : State :=
  dmiRead (fun s => read32 s (progbufOffset n)) s

/-- R152: write of program-buffer word `n`; it triggers nothing. -/
def writeProgbufWord (n : Nat) (v : Word32) (s : State) : State :=
  dmiWrite (fun s => write32 s (progbufOffset n) v) s

/-- R154: `HartResetRequest(h)`: the tracker state of an existing hart only. -/
def hartResetRequest (h : Nat) (s : State) : State :=
  if hartExists s h then dropNotification h (dropInterrupt h (setHalted h false (emit (.hartReset h) s))) else s

/-- R143: `HaltRequest(h, st)`: the intent, for a RUNNING hart only. -/
def haltRequest (h : Nat) (st : HartStatus) (s : State) : State :=
  if st = .running then addInterrupt h s else s

/-- R144: `ResumeRequest(h, st)`: for a HALTED hart only. -/
def resumeRequest (h : Nat) (st : HartStatus) (s : State) : State :=
  if st = .halted then emit (.resume h) (setHalted h false s) else s

/-- R33, R34, R142: `dmactive` set and `hartsel` stored. -/
def selectHart (v : Word32) (s : State) : State :=
  { s with dmactive := true, hartsel := hartselField v }

/-- R142: the halt and the resume request of one write, against one value of the hart's status. -/
def haltOrResume (v : Word32) (h : Nat) (s : State) : State :=
  let st := hartStatus s h
  let s1 := if haltreqBit v then haltRequest h st s else s
  if resumereqBit v then resumeRequest h st s1 else s1

/-- R142, R155: the effect of a `dmcontrol` write: `dmactive = 0` is `reset()` and nothing else. -/
def storeDmcontrol (v : Word32) (s : State) : State :=
  if dmactiveBit v then
    let s1 := selectHart v s
    let h := (hartselField v).toNat
    haltOrResume v h (if resetBit v then hartResetRequest h s1 else s1)
  else moduleReset s

/-- R146: the effect of an `abstractcs` write; it never calls `perform` (C2). -/
def storeAbstractcs (v : Word32) (s : State) : State :=
  clearCommandError (clearMask v) { s with autoexec := autoexecField v }

/-! ## The meanings -/

/-- R149, slot 0. -/
def execDmiReadData0 (s : State) : Host.Outcome State Fault Refusal :=
  .next (readSlot 0 s)

/-- R150, slot 0. -/
def execDmiWriteData0 (v : Word32) (s : State) : Host.Outcome State Fault Refusal :=
  .next (writeSlot 0 v s)

/-- R149, slot 1. -/
def execDmiReadData1 (s : State) : Host.Outcome State Fault Refusal :=
  .next (readSlot 1 s)

/-- R150, slot 1. -/
def execDmiWriteData1 (v : Word32) (s : State) : Host.Outcome State Fault Refusal :=
  .next (writeSlot 1 v s)

/-- R149, slot 2. -/
def execDmiReadData2 (s : State) : Host.Outcome State Fault Refusal :=
  .next (readSlot 2 s)

/-- R150, slot 2. -/
def execDmiWriteData2 (v : Word32) (s : State) : Host.Outcome State Fault Refusal :=
  .next (writeSlot 2 v s)

/-- R149, slot 3. -/
def execDmiReadData3 (s : State) : Host.Outcome State Fault Refusal :=
  .next (readSlot 3 s)

/-- R150, slot 3. -/
def execDmiWriteData3 (v : Word32) (s : State) : Host.Outcome State Fault Refusal :=
  .next (writeSlot 3 v s)

/-- R149, slot 4. -/
def execDmiReadData4 (s : State) : Host.Outcome State Fault Refusal :=
  .next (readSlot 4 s)

/-- R150, slot 4. -/
def execDmiWriteData4 (v : Word32) (s : State) : Host.Outcome State Fault Refusal :=
  .next (writeSlot 4 v s)

/-- R149, slot 5. -/
def execDmiReadData5 (s : State) : Host.Outcome State Fault Refusal :=
  .next (readSlot 5 s)

/-- R150, slot 5. -/
def execDmiWriteData5 (v : Word32) (s : State) : Host.Outcome State Fault Refusal :=
  .next (writeSlot 5 v s)

/-- R149, slot 6. -/
def execDmiReadData6 (s : State) : Host.Outcome State Fault Refusal :=
  .next (readSlot 6 s)

/-- R150, slot 6. -/
def execDmiWriteData6 (v : Word32) (s : State) : Host.Outcome State Fault Refusal :=
  .next (writeSlot 6 v s)

/-- R149, slot 7. -/
def execDmiReadData7 (s : State) : Host.Outcome State Fault Refusal :=
  .next (readSlot 7 s)

/-- R150, slot 7. -/
def execDmiWriteData7 (v : Word32) (s : State) : Host.Outcome State Fault Refusal :=
  .next (writeSlot 7 v s)

/-- R141. -/
def execDmiReadDmcontrol (s : State) : Host.Outcome State Fault Refusal :=
  .next (dmiRead dmcontrolWord s)

/-- R142. -/
def execDmiWriteDmcontrol (v : Word32) (s : State) : Host.Outcome State Fault Refusal :=
  .next (dmiWrite (storeDmcontrol v) s)

/-- R145. -/
def execDmiReadAbstractcs (s : State) : Host.Outcome State Fault Refusal :=
  .next (dmiRead abstractcsWord s)

/-- R146. -/
def execDmiWriteAbstractcs (v : Word32) (s : State) : Host.Outcome State Fault Refusal :=
  .next (dmiWrite (storeAbstractcs v) s)

/-- R147, R125 (c). -/
def execDmiReadCommand (s : State) : Host.Outcome State Fault Refusal :=
  .next (dmiRead commandWord s)

/-- R148. -/
def execDmiWriteCommand (v : Word32) (s : State) : Host.Outcome State Fault Refusal :=
  .next (dmiWrite (perform v) s)

/-- R151, word 0. -/
def execDmiReadProgbuf0 (s : State) : Host.Outcome State Fault Refusal :=
  .next (readProgbufWord 0 s)

/-- R152, word 0. -/
def execDmiWriteProgbuf0 (v : Word32) (s : State) : Host.Outcome State Fault Refusal :=
  .next (writeProgbufWord 0 v s)

/-- R151, word 1. -/
def execDmiReadProgbuf1 (s : State) : Host.Outcome State Fault Refusal :=
  .next (readProgbufWord 1 s)

/-- R152, word 1. -/
def execDmiWriteProgbuf1 (v : Word32) (s : State) : Host.Outcome State Fault Refusal :=
  .next (writeProgbufWord 1 v s)

/-- R151, word 2. -/
def execDmiReadProgbuf2 (s : State) : Host.Outcome State Fault Refusal :=
  .next (readProgbufWord 2 s)

/-- R152, word 2. -/
def execDmiWriteProgbuf2 (v : Word32) (s : State) : Host.Outcome State Fault Refusal :=
  .next (writeProgbufWord 2 v s)

/-- R151, word 3. -/
def execDmiReadProgbuf3 (s : State) : Host.Outcome State Fault Refusal :=
  .next (readProgbufWord 3 s)

/-- R152, word 3. -/
def execDmiWriteProgbuf3 (v : Word32) (s : State) : Host.Outcome State Fault Refusal :=
  .next (writeProgbufWord 3 v s)

/-- R151, word 4. -/
def execDmiReadProgbuf4 (s : State) : Host.Outcome State Fault Refusal :=
  .next (readProgbufWord 4 s)

/-- R152, word 4. -/
def execDmiWriteProgbuf4 (v : Word32) (s : State) : Host.Outcome State Fault Refusal :=
  .next (writeProgbufWord 4 v s)

/-- R151, word 5. -/
def execDmiReadProgbuf5 (s : State) : Host.Outcome State Fault Refusal :=
  .next (readProgbufWord 5 s)

/-- R152, word 5. -/
def execDmiWriteProgbuf5 (v : Word32) (s : State) : Host.Outcome State Fault Refusal :=
  .next (writeProgbufWord 5 v s)

/-- R151, word 6. -/
def execDmiReadProgbuf6 (s : State) : Host.Outcome State Fault Refusal :=
  .next (readProgbufWord 6 s)

/-- R152, word 6. -/
def execDmiWriteProgbuf6 (v : Word32) (s : State) : Host.Outcome State Fault Refusal :=
  .next (writeProgbufWord 6 v s)

/-- R151, word 7. -/
def execDmiReadProgbuf7 (s : State) : Host.Outcome State Fault Refusal :=
  .next (readProgbufWord 7 s)

/-- R152, word 7. -/
def execDmiWriteProgbuf7 (v : Word32) (s : State) : Host.Outcome State Fault Refusal :=
  .next (writeProgbufWord 7 v s)

end Sys2Proof.Machine
end

