-- ==== Sys2Proof/Machine/Events.lean ====
section
/-! DEFINITION. The EVT and OWN operations (43_hart_events.md R240 to R254, 70_reset_and_hazards.md R332). None of them runs
`Sync()` or emits a pulse (R240, R255). -/

namespace Sys2Proof.Machine

/-- R241: a `set` or `clear` accessor is refused, and changes nothing, for `h >= MAX_HARTS`. -/
def accessor (h : Nat) (effect : State → State) (s : State) : State :=
  if h < Config.maxHarts then respond .ok (effect (clearPulses s)) else respond .fail (clearPulses s)

/-- R241, R244, R247: a `get` accessor answers membership, `false` for `h >= MAX_HARTS`, and changes nothing. -/
def getter (h : Nat) (set : List Nat) (s : State) : State :=
  respond (.member (decide (h < Config.maxHarts) && set.contains h)) (clearPulses s)

/-- R242. -/
def execSetInterrupt (h : Nat) (s : State) : Host.Outcome State Fault Refusal :=
  .next (accessor h (addInterrupt h) s)

/-- R243. -/
def execClearInterrupt (h : Nat) (s : State) : Host.Outcome State Fault Refusal :=
  .next (accessor h (dropInterrupt h) s)

/-- R244. -/
def execGetInterrupt (h : Nat) (s : State) : Host.Outcome State Fault Refusal :=
  .next (getter h s.interrupt s)

/-- R245. -/
def execSetHaltNotification (h : Nat) (s : State) : Host.Outcome State Fault Refusal :=
  .next (accessor h (addNotification h) s)

/-- R246. -/
def execClearHaltNotification (h : Nat) (s : State) : Host.Outcome State Fault Refusal :=
  .next (accessor h (dropNotification h) s)

/-- R247. -/
def execGetHaltNotification (h : Nat) (s : State) : Host.Outcome State Fault Refusal :=
  .next (getter h s.haltNotification s)

/-- R251. -/
def execActionExecuted (s : State) : Host.Outcome State Fault Refusal :=
  .next (respond .none (completeExecuted (clearPulses s)))

/-- R252. -/
def execActionFaulted (s : State) : Host.Outcome State Fault Refusal :=
  .next (respond .none (completeFaulted (clearPulses s)))

/-- R332: `reset()`, then unspecified bytes in the exchange buffer. -/
def execPowerOn (s : State) : Host.Outcome State Fault Refusal :=
  .next (respond .none (drawExchange (moduleReset (clearPulses s))))

end Sys2Proof.Machine
end

