-- ==== Sys2Proof/Machine/HartInstr.lean ====
section
/-! DEFINITION. The staged instruction words (44_staged_instructions.md R273 to R278), as the hart `s.stepping` executes
them: the block itself only writes these words, and the spec says what it assumes a hart does with each (R281; log 8). -/

namespace Sys2Proof.Machine

/-- R274, R276: SD and LD exist only on `XLEN = 64`; on a 32-bit hart the word is an exception of the hart (log 12). -/
def onXlen64 (act : State → State) (s : State) : State :=
  match s.params.xlen with
  | .x64 => act s
  | .x32 => takeException s.stepping (respond .none s)

/-- R278: `pc <- pc + imm`, in `XLEN` bits (log 13), to a multiple of 4 or not (DESIGN CHOICE, log 22). DESIGN CHOICE, log
12: a jump to `EXC_ABS` is no fault, for R253 lets the collaborator watch the pc or see the trap, and the model's sees the
trap; a carrying hart that jumps there keeps `busy = 1` until an event arrives. -/
def jumpBy (h : Nat) (imm : BitVec 21) (s : State) : State :=
  setPc h (readPc s h + imm.signExtend 64) s

/-- R273: `MemWrite(A, 4, x[rs2][31:0])`, then `pc <- pc + 4`. -/
def execSw (imm : BitVec 12) (rs2 rs1 : BitVec 5) (s : State) : Host.Outcome State Fault Refusal :=
  .next (hartStore s.stepping (effectiveAddress s s.stepping rs1 imm) (littleEndian 4 (readX s s.stepping rs2)) (clearPulses s))

/-- R274: `MemWrite(A, 8, x[rs2][63:0])`, then `pc <- pc + 4`. -/
def execSd (imm : BitVec 12) (rs2 rs1 : BitVec 5) (s : State) : Host.Outcome State Fault Refusal :=
  .next (onXlen64 (hartStore s.stepping (effectiveAddress s s.stepping rs1 imm) (littleEndian 8 (readX s s.stepping rs2))) (clearPulses s))

/-- R275: `x[rd] <- sext(MemRead(A, 4))`, then `pc <- pc + 4`. -/
def execLw (imm : BitVec 12) (rs1 rd : BitVec 5) (s : State) : Host.Outcome State Fault Refusal :=
  .next (hartLoad s.stepping (effectiveAddress s s.stepping rs1 imm) 4 signExtendWord rd (clearPulses s))

/-- R276: `x[rd] <- MemRead(A, 8)`, then `pc <- pc + 4`. -/
def execLd (imm : BitVec 12) (rs1 rd : BitVec 5) (s : State) : Host.Outcome State Fault Refusal :=
  .next (onXlen64 (hartLoad s.stepping (effectiveAddress s s.stepping rs1 imm) 8 (fun v => v) rd) (clearPulses s))

/-- R277: the trap to the debug ROM. -/
def execEbreak (s : State) : Host.Outcome State Fault Refusal :=
  .next (respond .none (trapToDebugRom s.stepping (clearPulses s)))

/-- R278: no link register is written. -/
def execJal (imm : BitVec 21) (s : State) : Host.Outcome State Fault Refusal :=
  .next (respond .none (jumpBy s.stepping imm (clearPulses s)))

end Sys2Proof.Machine
end

