-- ==== Sys2Proof/Machine/Dispatch.lean ====
section
/-! DEFINITION. One arm per row of the opcode table: each instruction's meaning. -/

namespace Sys2Proof.Machine

/-- What an instruction does in a state. -/
def exec (i : Instr) (s : State) : Host.Outcome State Fault Refusal :=
  match i with
  | .dmiReadData0 => Sys2Proof.Machine.execDmiReadData0 s
  | .dmiWriteData0 v => Sys2Proof.Machine.execDmiWriteData0 v s
  | .dmiReadData1 => Sys2Proof.Machine.execDmiReadData1 s
  | .dmiWriteData1 v => Sys2Proof.Machine.execDmiWriteData1 v s
  | .dmiReadData2 => Sys2Proof.Machine.execDmiReadData2 s
  | .dmiWriteData2 v => Sys2Proof.Machine.execDmiWriteData2 v s
  | .dmiReadData3 => Sys2Proof.Machine.execDmiReadData3 s
  | .dmiWriteData3 v => Sys2Proof.Machine.execDmiWriteData3 v s
  | .dmiReadData4 => Sys2Proof.Machine.execDmiReadData4 s
  | .dmiWriteData4 v => Sys2Proof.Machine.execDmiWriteData4 v s
  | .dmiReadData5 => Sys2Proof.Machine.execDmiReadData5 s
  | .dmiWriteData5 v => Sys2Proof.Machine.execDmiWriteData5 v s
  | .dmiReadData6 => Sys2Proof.Machine.execDmiReadData6 s
  | .dmiWriteData6 v => Sys2Proof.Machine.execDmiWriteData6 v s
  | .dmiReadData7 => Sys2Proof.Machine.execDmiReadData7 s
  | .dmiWriteData7 v => Sys2Proof.Machine.execDmiWriteData7 v s
  | .dmiReadDmcontrol => Sys2Proof.Machine.execDmiReadDmcontrol s
  | .dmiWriteDmcontrol v => Sys2Proof.Machine.execDmiWriteDmcontrol v s
  | .dmiReadAbstractcs => Sys2Proof.Machine.execDmiReadAbstractcs s
  | .dmiWriteAbstractcs v => Sys2Proof.Machine.execDmiWriteAbstractcs v s
  | .dmiReadCommand => Sys2Proof.Machine.execDmiReadCommand s
  | .dmiWriteCommand v => Sys2Proof.Machine.execDmiWriteCommand v s
  | .dmiReadProgbuf0 => Sys2Proof.Machine.execDmiReadProgbuf0 s
  | .dmiWriteProgbuf0 v => Sys2Proof.Machine.execDmiWriteProgbuf0 v s
  | .dmiReadProgbuf1 => Sys2Proof.Machine.execDmiReadProgbuf1 s
  | .dmiWriteProgbuf1 v => Sys2Proof.Machine.execDmiWriteProgbuf1 v s
  | .dmiReadProgbuf2 => Sys2Proof.Machine.execDmiReadProgbuf2 s
  | .dmiWriteProgbuf2 v => Sys2Proof.Machine.execDmiWriteProgbuf2 v s
  | .dmiReadProgbuf3 => Sys2Proof.Machine.execDmiReadProgbuf3 s
  | .dmiWriteProgbuf3 v => Sys2Proof.Machine.execDmiWriteProgbuf3 v s
  | .dmiReadProgbuf4 => Sys2Proof.Machine.execDmiReadProgbuf4 s
  | .dmiWriteProgbuf4 v => Sys2Proof.Machine.execDmiWriteProgbuf4 v s
  | .dmiReadProgbuf5 => Sys2Proof.Machine.execDmiReadProgbuf5 s
  | .dmiWriteProgbuf5 v => Sys2Proof.Machine.execDmiWriteProgbuf5 v s
  | .dmiReadProgbuf6 => Sys2Proof.Machine.execDmiReadProgbuf6 s
  | .dmiWriteProgbuf6 v => Sys2Proof.Machine.execDmiWriteProgbuf6 v s
  | .dmiReadProgbuf7 => Sys2Proof.Machine.execDmiReadProgbuf7 s
  | .dmiWriteProgbuf7 v => Sys2Proof.Machine.execDmiWriteProgbuf7 v s
  | .arRead32 b23 b19 postexec r => Sys2Proof.Machine.execArRead32 b23 b19 postexec r s
  | .arWrite32 b23 b19 postexec r => Sys2Proof.Machine.execArWrite32 b23 b19 postexec r s
  | .arRead64 b23 b19 postexec r => Sys2Proof.Machine.execArRead64 b23 b19 postexec r s
  | .arWrite64 b23 b19 postexec r => Sys2Proof.Machine.execArWrite64 b23 b19 postexec r s
  | .arExec hi lo => Sys2Proof.Machine.execArExec hi lo s
  | .arNop hi lo => Sys2Proof.Machine.execArNop hi lo s
  | .arUnsup low => Sys2Proof.Machine.execArUnsup low s
  | .quick low => Sys2Proof.Machine.execQuick low s
  | .unknown2_3 low => Sys2Proof.Machine.execUnknown2_3 low s
  | .unknown4_7 low => Sys2Proof.Machine.execUnknown4_7 low s
  | .unknown8_15 low => Sys2Proof.Machine.execUnknown8_15 low s
  | .unknown16_31 low => Sys2Proof.Machine.execUnknown16_31 low s
  | .unknown32_63 low => Sys2Proof.Machine.execUnknown32_63 low s
  | .unknown64_127 low => Sys2Proof.Machine.execUnknown64_127 low s
  | .unknown128_255 low => Sys2Proof.Machine.execUnknown128_255 low s
  | .loadEntry off len => Sys2Proof.Machine.execLoadEntry off len s
  | .loadExc off len => Sys2Proof.Machine.execLoadExc off len s
  | .loadProgbuf off len => Sys2Proof.Machine.execLoadProgbuf off len s
  | .loadCode off len => Sys2Proof.Machine.execLoadCode off len s
  | .loadExch off len => Sys2Proof.Machine.execLoadExch off len s
  | .storeEntry off bytes => Sys2Proof.Machine.execStoreEntry off bytes s
  | .storeExc off bytes => Sys2Proof.Machine.execStoreExc off bytes s
  | .storeProgbuf off bytes => Sys2Proof.Machine.execStoreProgbuf off bytes s
  | .storeCode off bytes => Sys2Proof.Machine.execStoreCode off bytes s
  | .storeExch off bytes => Sys2Proof.Machine.execStoreExch off bytes s
  | .setInterrupt h => Sys2Proof.Machine.execSetInterrupt h s
  | .clearInterrupt h => Sys2Proof.Machine.execClearInterrupt h s
  | .getInterrupt h => Sys2Proof.Machine.execGetInterrupt h s
  | .setHaltNotification h => Sys2Proof.Machine.execSetHaltNotification h s
  | .clearHaltNotification h => Sys2Proof.Machine.execClearHaltNotification h s
  | .getHaltNotification h => Sys2Proof.Machine.execGetHaltNotification h s
  | .actionExecuted => Sys2Proof.Machine.execActionExecuted s
  | .actionFaulted => Sys2Proof.Machine.execActionFaulted s
  | .powerOn => Sys2Proof.Machine.execPowerOn s
  | .sw imm rs2 rs1 => Sys2Proof.Machine.execSw imm rs2 rs1 s
  | .sd imm rs2 rs1 => Sys2Proof.Machine.execSd imm rs2 rs1 s
  | .lw imm rs1 rd => Sys2Proof.Machine.execLw imm rs1 rd s
  | .ld imm rs1 rd => Sys2Proof.Machine.execLd imm rs1 rd s
  | .ebreak => Sys2Proof.Machine.execEbreak s
  | .jal imm => Sys2Proof.Machine.execJal imm s

end Sys2Proof.Machine
end

