-- ==== Sys2Proof/Machine/Step.lean ====
section
/-! DEFINITION. One step of the machine: the oldest pending request is taken and answered (R9, R10, log 3). -/

namespace Sys2Proof.Machine

/-- A packet that decodes runs as its instruction; one that does not is rejected. -/
def runPacket (p : Packet) (s : State) : Host.Outcome State Fault Refusal :=
  match decode p with
  | some i => exec i s
  | none => rejectPacket p s

/-- The execution loop steps hart `h`: fetch at its pc, then execute (R258, R281). DESIGN CHOICE, log 3: R258 and R305 have the
loop look at `debug_interrupt(h)` when it steps the hart. Here the look is a request of its own, `hartPoll`, so this step runs
the next word although an interrupt is pending. The word is the one that stands in the module now: a hart caches none (DESIGN
CHOICE, log 21). The fetch is a BUS load, and `response` keeps the answer of what follows it (log 6). -/
def runHart (h : Nat) (s : State) : Host.Outcome State Fault Refusal :=
  match hartFetch s h with
  | .word w => runPacket (.hart w) { s with stepping := h }
  | .refused => .next (fetchRefused h s)
  | .outside => .fault .fetchOutsideModule

/-- One step. With no request pending nothing happens: the block does not act by itself (R10). -/
def step (s : State) : Host.Outcome State Fault Refusal :=
  match s.pending with
  | [] => .next s
  | .packet p :: rest => runPacket p { s with pending := rest }
  | .hartStep h :: rest => runHart h { s with pending := rest }
  | .hartPoll h :: rest => .next (honourInterrupt h { s with pending := rest })
  | .setUnavailable hs :: rest => .next { s with pending := rest, unavailable := hs }
  | .hartRan h c :: rest => .next (setContext h c { s with pending := rest })

/-- The state in which the next step runs the opcode table's number `w` of `nbits` bits. A request of a port is put in
front of the pending ones; an instruction word is put where hart 0 fetches it, and hart 0 is stepped next (log 3). -/
def State.withFetchWord (s : State) (nbits w : Nat) : State :=
  match tablePacket nbits w with
  | .hart word => { placeHartWord word s with pending := .hartStep 0 :: s.pending }
  | p => { s with pending := .packet p :: s.pending }

end Sys2Proof.Machine
end

