-- ==== Sys2Proof/Safety.lean ====
section
/-! DEFINITION. The terms the statements use: the invariants of R57, the canonical forms of the model's own lists, what a
transaction leaves unchanged part by part, and what `Sync()` does, said without naming the functions that do it. -/

namespace Sys2Proof.Machine

/-! ## The invariants of R57 -/

/-- R57 item 1: `busy` says exactly that a staged action has not completed. -/
def BusyIffStaged (s : State) : Prop :=
  s.busy = true ↔ (s.nextAction ≠ none ∧ s.actionExecuted = false)

/-- R57 item 2, R49: with nothing in flight the entry region holds its template. -/
def EntryAtTemplate (s : State) : Prop :=
  s.busy = false → ∀ off, off < 0x10 → readByte s off = imageByte s.params.romEntry.toList off

/-- R57 item 3, R55: in flight, the entry region holds the one or two staged words and then the template. -/
def EntryHoldsAction (s : State) : Prop :=
  s.busy = true → ∀ a, s.nextAction = some a →
    (a.words.length = 1 ∨ a.words.length = 2) ∧
    (∀ i (h : i < a.words.length), read32 s (4 * i) = a.words[i]) ∧
    ∀ off, 4 * a.words.length ≤ off → off < 0x10 → readByte s off = imageByte s.params.romEntry.toList off

/-- R57 item 4: in flight, no error but BUSY is recorded. -/
def BusyErrorOnly (s : State) : Prop :=
  s.busy = true → s.cmderr = .none ∨ s.cmderr = .busy

/-- R57 item 5: the constant fields. That `cmderr` has one of six values is its type. -/
def ConstantsHold (s : State) : Prop :=
  s.datacount = 8#4 ∧ s.version = 1#4 ∧ s.authenticated = true ∧ s.authbusy = false ∧ s.authtype = .noauth

/-- R57 item 6: every member is below `MAX_HARTS`. -/
def IdsBelow (l : List Nat) : Prop :=
  ∀ h ∈ l, h < Config.maxHarts

/-- R57 item 7. -/
def UnrecordedIsZero (s : State) : Prop :=
  s.lastCommandValid = false → s.lastCommand = 0#32

/-- R57, items 1 to 7. -/
structure SpecInvariant (s : State) : Prop where
  busyIffStaged : BusyIffStaged s
  entryAtTemplate : EntryAtTemplate s
  entryHoldsAction : EntryHoldsAction s
  busyErrorOnly : BusyErrorOnly s
  constantsHold : ConstantsHold s
  interruptBelow : IdsBelow s.interrupt
  notificationBelow : IdsBelow s.haltNotification
  unrecordedIsZero : UnrecordedIsZero s

/-! ## The model's own canonical forms (log 15) -/

/-- A set of hart ids in its one form: ids strictly rising. -/
def IdsRise (l : List Nat) : Prop :=
  l.Pairwise (· < ·)

/-- Log 15: equal contents are equal data. -/
structure CanonicalForm (s : State) : Prop where
  memory : Memory.wf s s.mem = true
  interrupt : IdsRise s.interrupt
  notification : IdsRise s.haltNotification
  harts : keysRise s.harts = true

/-! ## The parts of the state, for what a transaction leaves unchanged -/

/-- The constant fields and the `autoexec` bits are the same. -/
structure SameSettings (s t : State) : Prop where
  authenticated : t.authenticated = s.authenticated
  authbusy : t.authbusy = s.authbusy
  authtype : t.authtype = s.authtype
  version : t.version = s.version
  autoexec : t.autoexec = s.autoexec
  datacount : t.datacount = s.datacount

/-- The settings and the stored fields of `dmcontrol` are the same. -/
structure SameControl (s t : State) : Prop extends SameSettings s t where
  dmactive : t.dmactive = s.dmactive
  hartsel : t.hartsel = s.hartsel

/-- The recorded command and the staged-action record are the same. -/
structure SameAction (s t : State) : Prop where
  busy : t.busy = s.busy
  lastCommand : t.lastCommand = s.lastCommand
  lastCommandValid : t.lastCommandValid = s.lastCommandValid
  nextAction : t.nextAction = s.nextAction
  actionExecuted : t.actionExecuted = s.actionExecuted

/-- The command engine is the same: the action and the error. -/
structure SameEngine (s t : State) : Prop extends SameAction s t where
  cmderr : t.cmderr = s.cmderr

/-- The per-hart tracker is the same. -/
structure SameTracker (s t : State) : Prop where
  halted : ∀ h, isHalted t h = isHalted s h
  interrupt : t.interrupt = s.interrupt
  notification : t.haltNotification = s.haltNotification

/-- Every byte of the BUS offset space reads the same. -/
def SameStorage (s t : State) : Prop :=
  ∀ a, readByte t a = readByte s a

/-- Every register and the pc of every hart are the same. -/
def SameHarts (s t : State) : Prop :=
  ∀ h, hartContext t h = hartContext s h

/-- The parameters, the owner's answers, the requests and the model's own counters are the same. -/
structure SameOutside (s t : State) : Prop where
  params : t.params = s.params
  unavailable : t.unavailable = s.unavailable
  pending : t.pending = s.pending
  stepping : t.stepping = s.stepping
  freeCount : t.freeCount = s.freeCount

/-- Every field of the block (R30) but the answer is the same, and so is everything outside it. -/
structure Unchanged (s t : State) : Prop where
  control : SameControl s t
  engine : SameEngine s t
  tracker : SameTracker s t
  storage : SameStorage s t
  harts : SameHarts s t
  outside : SameOutside s t

/-- What the transaction returns: its response and the list of pulses (R9, R255). -/
def Answers (t : State) (r : Response) (ps : List Pulse) : Prop :=
  t.response = r ∧ t.pulses = ps

/-- The bytes `bs` stand from offset `off` up in `t`, and every byte outside them reads as in `s`. -/
def Stored (s t : State) (off : Nat) (bs : List Byte) : Prop :=
  ∀ a, readByte t a = if off ≤ a ∧ a < off + bs.length then bs.getD (a - off) 0#8 else readByte s a

/-! ## What the rules say of `Sync()` and of the selected hart -/

/-- R220: the access has a byte and lies inside one of the five regions. -/
def Inside (off len : Nat) : Prop :=
  0 < len ∧ (off + len ≤ 0x10 ∨ (0x10 ≤ off ∧ off + len ≤ 0x20) ∨ (0x20 ≤ off ∧ off + len ≤ 0x40) ∨
    (0x40 ≤ off ∧ off + len ≤ 0x80) ∨ (0x80 ≤ off ∧ off + len ≤ 0xA0))

/-- R226: the access has a byte and lies inside the program buffer or the exchange buffer. -/
def InsideWritable (off len : Nat) : Prop :=
  0 < len ∧ ((0x20 ≤ off ∧ off + len ≤ 0x40) ∨ (0x80 ≤ off ∧ off + len ≤ 0xA0))

/-- R36, R249: what `hartstatus(h)` is in a DMI transaction, once every notification has been folded. -/
def statusAfterSync (s : State) (h : Nat) : HartStatus :=
  if hartExists s h = false then .notexist
  else if hartUnavailable s h = true then .unavailable
  else if isHalted s h = true ∨ h ∈ s.haltNotification then .halted
  else .running

/-- R249: every notification of an existing hart has become its entry in the halt table and has dropped its interrupt, and
no notification is left. -/
structure Synced (s t : State) : Prop where
  halted : ∀ h, isHalted t h = (isHalted s h || (s.haltNotification.contains h && hartExists s h))
  interrupt : ∀ h, h ∈ t.interrupt ↔ h ∈ s.interrupt ∧ ¬(h ∈ s.haltNotification ∧ hartExists s h = true)
  notification : t.haltNotification = []

/-- A DMI transaction that does nothing but `Sync()` (R140). -/
structure SyncedOnly (s t : State) : Prop where
  control : SameControl s t
  engine : SameEngine s t
  synced : Synced s t
  storage : SameStorage s t
  harts : SameHarts s t
  outside : SameOutside s t

/-- A command write that changes nothing outside the recorded command and `cmderr` but what `Sync()` does. -/
structure NothingStaged (s t : State) : Prop where
  busy : t.busy = s.busy
  nextAction : t.nextAction = s.nextAction
  actionExecuted : t.actionExecuted = s.actionExecuted
  control : SameControl s t
  synced : Synced s t
  storage : SameStorage s t
  harts : SameHarts s t
  outside : SameOutside s t

/-- R184: the command is recorded. -/
def Recorded (t : State) (c : Word32) : Prop :=
  t.lastCommand = c ∧ t.lastCommandValid = true

/-- The id that `hartsel` holds. -/
def selected (s : State) : Nat := s.hartsel.toNat

/-- R58: a new command is accepted for decoding. -/
def EngineIdle (s : State) : Prop := s.busy = false ∧ s.cmderr = .none

/-- The instruction writes the command word `c` to `command`: as the plain DMI write, or under the row of its class. -/
def CarriesCommand (i : Instr) (c : Word32) : Prop :=
  i = .dmiWriteCommand c ∨ encode i = .command c

/-- R192: the words are staged for the selected hart, which is released and fetches at `ENTRY_ABS` (log 11). -/
structure StagedFor (s t : State) (c : Word32) (words : List Word32) : Prop where
  entry : Stored s t 0 (words.flatMap (littleEndian 4))
  nextAction : t.nextAction = some { words := words, hart := selected s, command := c }
  actionExecuted : t.actionExecuted = false
  busy : t.busy = true
  cmderr : t.cmderr = .none
  recorded : Recorded t c
  control : SameControl s t
  synced : Synced s t
  pc : readPc t (selected s) = BitVec.ofNat 64 (dmBase s.params)
  registers : ∀ h r, readX t h r = readX s h r
  otherPcs : ∀ h, h ≠ selected s → readPc t h = readPc s h
  outside : SameOutside s t

/-- R251: the action in flight has completed: `busy` has fallen and the entry region is back at its template. -/
structure Completed (s t : State) : Prop where
  actionExecuted : t.actionExecuted = true
  busy : t.busy = false
  nextAction : t.nextAction = s.nextAction
  lastCommand : t.lastCommand = s.lastCommand
  lastCommandValid : t.lastCommandValid = s.lastCommandValid
  entry : ∀ a, readByte t a = if a < 0x10 then imageByte s.params.romEntry.toList a else readByte s a

/-- R330: the fields that `reset()` writes, the buffers apart. -/
structure ResetDone (s t : State) : Prop where
  dmactive : t.dmactive = false
  hartsel : t.hartsel = 0#10
  autoexec : t.autoexec = 0#8
  cmderr : t.cmderr = .none
  busy : t.busy = false
  lastCommand : t.lastCommand = 0#32
  lastCommandValid : t.lastCommandValid = false
  halted : ∀ h, isHalted t h = false
  interrupt : t.interrupt = []
  notification : t.haltNotification = []
  nextAction : t.nextAction = none
  actionExecuted : t.actionExecuted = false
  constants : t.authenticated = s.authenticated ∧ t.authbusy = s.authbusy ∧ t.authtype = s.authtype ∧
    t.version = s.version ∧ t.datacount = s.datacount
  harts : SameHarts s t
  params : t.params = s.params
  unavailable : t.unavailable = s.unavailable
  pending : t.pending = s.pending
  stepping : t.stepping = s.stepping

/-! ## What an instruction word does to its hart -/

/-- The hart goes on: its pc advances by 4, and no other hart's pc moves (R273). -/
def PcAdvanced (s t : State) (h : Nat) : Prop :=
  ∀ k, readPc t k = if k = h then clipXlen s.params (readPc s h + 4) else readPc s k

/-- No general register of any hart changes. -/
def SameRegisters (s t : State) : Prop :=
  ∀ h r, readX t h r = readX s h r

/-- No pc but that of hart `h` moves. -/
def OtherPcsSame (s t : State) (h : Nat) : Prop :=
  ∀ k, k ≠ h → readPc t k = readPc s k

/-- R301, R252: the hart that carries the staged action stands at `EXC_ABS` and the action has faulted; nothing else. -/
structure FaultedAction (s t : State) (h : Nat) : Prop where
  completed : Completed s t
  cmderr : t.cmderr = .exception
  pc : readPc t h = BitVec.ofNat 64 (dmBase s.params + 0x10)
  otherPcs : OtherPcsSame s t h
  registers : SameRegisters s t
  control : SameControl s t
  tracker : SameTracker s t
  outside : SameOutside s t

/-- R308, log 12: a trap that the block does not see: only that hart's pc moves. -/
structure OwnTrap (s t : State) (h : Nat) : Prop where
  control : SameControl s t
  engine : SameEngine s t
  tracker : SameTracker s t
  storage : SameStorage s t
  registers : SameRegisters s t
  otherPcs : OtherPcsSame s t h
  params : t.params = s.params
  unavailable : t.unavailable = s.unavailable
  pending : t.pending = s.pending
  stepping : t.stepping = s.stepping

/-- R253, R343: a staged action is in flight and this hart carries it. -/
def Carries (s : State) (h : Nat) : Prop :=
  s.busy = true ∧ ∃ a, s.nextAction = some a ∧ a.hart = h

/-- R281 (c): the hart's pc is in the program buffer, or in the entry region while an action is staged there (log 12). -/
def InStagedCode (s : State) (h : Nat) : Prop :=
  ∃ off, (readPc s h).toNat = dmBase s.params + off ∧ ((0x20 ≤ off ∧ off < 0x40) ∨ (s.busy = true ∧ off < 0x10))

/-- R277: the block has the hart as halted, or its pc is in the module (log 10). -/
def UnderDebugger (s : State) (h : Nat) : Prop :=
  isHalted s h = true ∨ ∃ off, (readPc s h).toNat = dmBase s.params + off ∧ off < 0xA0

/-- R48: an address of a word of the debug ROM, in its entry, exception or code region. -/
def InDebugRom (p : Params) (a : XWord) : Prop :=
  ∃ off, a.toNat = dmBase p + off ∧ off % 4 = 0 ∧ (off < 0x20 ∨ (0x40 ≤ off ∧ off < 0x80))

/-! ## The access words of the stager, as R273 to R276 write them -/

/-- R272: the immediate `EXCH_ABS`. -/
def exchAddress (p : Params) : BitVec 12 := BitVec.ofNat 12 (dmBase p + 0x80)

/-- R273, R274: a store of register `r` at `A(x0)`, with its `funct3`. -/
def storeWordAt (a : BitVec 12) (r : BitVec 5) (funct3 : Word32) : Word32 :=
  ((a.extractLsb' 5 7).setWidth 32 <<< 25) ||| (r.setWidth 32 <<< 20) ||| (funct3 <<< 12) |||
    ((a.extractLsb' 0 5).setWidth 32 <<< 7) ||| 0x23#32

/-- R275, R276: a load of register `r` from `A(x0)`, with its `funct3`. -/
def loadWordAt (a : BitVec 12) (r : BitVec 5) (funct3 : Word32) : Word32 :=
  (a.setWidth 32 <<< 20) ||| (funct3 <<< 12) ||| (r.setWidth 32 <<< 7) ||| 0x03#32

/-! ## The rows of one shape, each with what tells it from the others -/

/-- R149: the eight slot reads, each with its slot. -/
def dataReads : List (Nat × Instr) :=
  [(0, .dmiReadData0), (1, .dmiReadData1), (2, .dmiReadData2), (3, .dmiReadData3), (4, .dmiReadData4),
   (5, .dmiReadData5), (6, .dmiReadData6), (7, .dmiReadData7)]

/-- R150: the eight slot writes of a word, each with its slot. -/
def dataWrites (v : Word32) : List (Nat × Instr) :=
  [(0, .dmiWriteData0 v), (1, .dmiWriteData1 v), (2, .dmiWriteData2 v), (3, .dmiWriteData3 v), (4, .dmiWriteData4 v),
   (5, .dmiWriteData5 v), (6, .dmiWriteData6 v), (7, .dmiWriteData7 v)]

/-- R151: the eight program-buffer reads, each with its word number. -/
def progbufReads : List (Nat × Instr) :=
  [(0, .dmiReadProgbuf0), (1, .dmiReadProgbuf1), (2, .dmiReadProgbuf2), (3, .dmiReadProgbuf3), (4, .dmiReadProgbuf4),
   (5, .dmiReadProgbuf5), (6, .dmiReadProgbuf6), (7, .dmiReadProgbuf7)]

/-- R152: the eight program-buffer writes of a word, each with its word number. -/
def progbufWrites (v : Word32) : List (Nat × Instr) :=
  [(0, .dmiWriteProgbuf0 v), (1, .dmiWriteProgbuf1 v), (2, .dmiWriteProgbuf2 v), (3, .dmiWriteProgbuf3 v),
   (4, .dmiWriteProgbuf4 v), (5, .dmiWriteProgbuf5 v), (6, .dmiWriteProgbuf6 v), (7, .dmiWriteProgbuf7 v)]

/-- R222 to R225, R230: the five loads, each with the base and the size of its region. -/
def loadRows (off len : Nat) : List (Nat × Nat × Instr) :=
  [(0x00, 0x10, .loadEntry off len), (0x10, 0x10, .loadExc off len), (0x20, 0x20, .loadProgbuf off len),
   (0x40, 0x40, .loadCode off len), (0x80, 0x20, .loadExch off len)]

/-- R231, R232: the two stores that are served, each with the base of its region; both regions have 32 bytes. -/
def storeRows (off : Nat) (bytes : List Byte) : List (Nat × Instr) :=
  [(0x20, .storeProgbuf off bytes), (0x80, .storeExch off bytes)]

/-- R81: the DMI addresses that name a register. -/
def mappedDmi : List Nat :=
  [0x04, 0x05, 0x06, 0x07, 0x08, 0x09, 0x0A, 0x0B, 0x10, 0x16, 0x17, 0x20, 0x21, 0x22, 0x23, 0x24, 0x25, 0x26, 0x27]

end Sys2Proof.Machine
end

