-- ==== Sys2Proof/WellFormed.lean ====
section
/-! DEFINITION. Which operands the encoding of a row admits: the bits a row fixes are fixed, so that every well-formed
instruction has a word of its own. -/

namespace Sys2Proof

/-- R120, R121: the register number and the size of a command word's bits 23:0 are ones that some access row takes. -/
def accessSupported (low : BitVec 24) : Bool :=
  low.extractLsb' 5 11 == 0x080#11 && (low.extractLsb' 20 3 == 2#3 || low.extractLsb' 20 3 == 3#3)

/-- `off` is a first byte of the region that starts at `base` and has `size` bytes (the pattern table of R111). -/
def firstByteIn (base size off : Nat) : Bool :=
  decide (base ≤ off) && decide (off < base + size)

/-- The operands are ones the row's encoding admits. A BUS access may still run past its region: that is a failed access
(R88), not an ill-formed request. -/
def Instr.wf : Instr → Bool
  | .arUnsup low => low.getLsbD 17 && !accessSupported low
  | .loadEntry off _ => firstByteIn 0x00 0x10 off
  | .loadExc off _ => firstByteIn 0x10 0x10 off
  | .loadProgbuf off _ => firstByteIn 0x20 0x20 off
  | .loadCode off _ => firstByteIn 0x40 0x40 off
  | .loadExch off _ => firstByteIn 0x80 0x20 off
  | .storeEntry off _ => firstByteIn 0x00 0x10 off
  | .storeExc off _ => firstByteIn 0x10 0x10 off
  | .storeProgbuf off _ => firstByteIn 0x20 0x20 off
  | .storeCode off _ => firstByteIn 0x40 0x40 off
  | .storeExch off _ => firstByteIn 0x80 0x20 off
  | .jal imm => !imm.getLsbD 0
  | .dmiReadData0 | .dmiWriteData0 _ | .dmiReadData1 | .dmiWriteData1 _ | .dmiReadData2 | .dmiWriteData2 _
  | .dmiReadData3 | .dmiWriteData3 _ | .dmiReadData4 | .dmiWriteData4 _ | .dmiReadData5 | .dmiWriteData5 _
  | .dmiReadData6 | .dmiWriteData6 _ | .dmiReadData7 | .dmiWriteData7 _ | .dmiReadDmcontrol | .dmiWriteDmcontrol _
  | .dmiReadAbstractcs | .dmiWriteAbstractcs _ | .dmiReadCommand | .dmiWriteCommand _ | .dmiReadProgbuf0
  | .dmiWriteProgbuf0 _ | .dmiReadProgbuf1 | .dmiWriteProgbuf1 _ | .dmiReadProgbuf2 | .dmiWriteProgbuf2 _
  | .dmiReadProgbuf3 | .dmiWriteProgbuf3 _ | .dmiReadProgbuf4 | .dmiWriteProgbuf4 _ | .dmiReadProgbuf5
  | .dmiWriteProgbuf5 _ | .dmiReadProgbuf6 | .dmiWriteProgbuf6 _ | .dmiReadProgbuf7 | .dmiWriteProgbuf7 _
  | .arRead32 _ _ _ _ | .arWrite32 _ _ _ _ | .arRead64 _ _ _ _ | .arWrite64 _ _ _ _ | .arExec _ _ | .arNop _ _
  | .quick _ | .unknown2_3 _ | .unknown4_7 _ | .unknown8_15 _ | .unknown16_31 _ | .unknown32_63 _
  | .unknown64_127 _ | .unknown128_255 _ | .setInterrupt _ | .clearInterrupt _ | .getInterrupt _
  | .setHaltNotification _ | .clearHaltNotification _ | .getHaltNotification _ | .actionExecuted | .actionFaulted
  | .powerOn | .sw _ _ _ | .sd _ _ _ | .lw _ _ _ | .ld _ _ _ | .ebreak => true

end Sys2Proof
end

