-- ==== Sys2Proof/Certificates/Slice0/Obligations.lean ====
section
/-! DEFINITION. The statements for the provers. Each docstring names the rules it formalises; where a clause rests on a
choice of the model it names the log entry. `Config.…` values and `State.freeCount` are free: every statement is for all of them. -/

open Sys2Proof Sys2Proof.Machine

/-! ## Decoding and encoding -/

/-- R110 to R112, R119, R121, R271: every well-formed instruction of the table, with every operand its encoding admits, is
read back from its own request. -/
def Obligations.DecodeOfEncode : Prop :=
  ∀ i : Instr, i.wf = true → decode (encode i) = some i

/-- R119, R121, R184: every 32-bit command word is of some class, and no bit of it is lost in decoding. -/
def Obligations.CommandWordsKeepEveryBit : Prop :=
  ∀ c : Word32, (decodeCommand c).wf = true ∧ encode (decodeCommand c) = .command c

/-- R271 to R278: an instruction word that decodes is the word of the instruction it decodes to. -/
def Obligations.InstructionWordsKeepEveryBit : Prop :=
  ∀ (w : Word32) (i : Instr), decodeHart w = some i → i.wf = true ∧ encode i = .hart w

/-- R119 to R121, R129: which row a command word selects. `XLEN` is looked at where the class is performed (log 14). -/
def Obligations.CommandClasses : Prop :=
  ∀ c : Word32,
    (cmdtype c = 0 → transfer c = true → 0x1000 ≤ regno c → regno c ≤ 0x101F → size c = 2 →
      decodeCommand c =
        if write c then .arWrite32 (c.getLsbD 23) (c.getLsbD 19) (postexec c) (c.extractLsb' 0 5)
        else .arRead32 (c.getLsbD 23) (c.getLsbD 19) (postexec c) (c.extractLsb' 0 5)) ∧
    (cmdtype c = 0 → transfer c = true → 0x1000 ≤ regno c → regno c ≤ 0x101F → size c = 3 →
      decodeCommand c =
        if write c then .arWrite64 (c.getLsbD 23) (c.getLsbD 19) (postexec c) (c.extractLsb' 0 5)
        else .arRead64 (c.getLsbD 23) (c.getLsbD 19) (postexec c) (c.extractLsb' 0 5)) ∧
    (cmdtype c = 0 → transfer c = true →
      (regno c < 0x1000 ∨ 0x101F < regno c ∨ (size c ≠ 2 ∧ size c ≠ 3)) →
      decodeCommand c = .arUnsup (c.extractLsb' 0 24)) ∧
    (cmdtype c = 0 → transfer c = false → postexec c = true →
      decodeCommand c = .arExec (c.extractLsb' 19 5) (c.extractLsb' 0 17)) ∧
    (cmdtype c = 0 → transfer c = false → postexec c = false →
      decodeCommand c = .arNop (c.extractLsb' 19 5) (c.extractLsb' 0 17)) ∧
    (cmdtype c = 1 → decodeCommand c = .quick (c.extractLsb' 0 24)) ∧
    (2 ≤ cmdtype c → cmdtype c < 4 → decodeCommand c = .unknown2_3 (c.extractLsb' 0 25)) ∧
    (4 ≤ cmdtype c → cmdtype c < 8 → decodeCommand c = .unknown4_7 (c.extractLsb' 0 26)) ∧
    (8 ≤ cmdtype c → cmdtype c < 16 → decodeCommand c = .unknown8_15 (c.extractLsb' 0 27)) ∧
    (16 ≤ cmdtype c → cmdtype c < 32 → decodeCommand c = .unknown16_31 (c.extractLsb' 0 28)) ∧
    (32 ≤ cmdtype c → cmdtype c < 64 → decodeCommand c = .unknown32_63 (c.extractLsb' 0 29)) ∧
    (64 ≤ cmdtype c → cmdtype c < 128 → decodeCommand c = .unknown64_127 (c.extractLsb' 0 30)) ∧
    (128 ≤ cmdtype c → decodeCommand c = .unknown128_255 (c.extractLsb' 0 31))

/-- Words and requests that the spec writes out itself (R110 to R112, R141, R194 to R202, R228, R230, R277 to R279), with what
each stands for. That 0x00321005 and 0x00331005 are the 64-bit rows whatever `XLEN` is, is log 14 (DESIGN CHOICE): with
`XLEN = 32`, R196 and R200 class them as `AR.UNSUP`, which is what those rows then do. -/
def Obligations.SpecWordsDecode : Prop :=
  decode (.dmi false 0x10 0#32) = some .dmiReadDmcontrol ∧
  decode (.dmi true 0x10 0xA0010000#32) = some (.dmiWriteDmcontrol 0xA0010000#32) ∧
  decode (.dmi true 0x17 0x00221005#32) = some (.dmiWriteCommand 0x00221005#32) ∧
  decode (.command 0x00221005#32) = some (.arRead32 false false false 5#5) ∧
  decode (.command 0x00231005#32) = some (.arWrite32 false false false 5#5) ∧
  decode (.command 0x00321005#32) = some (.arRead64 false false false 5#5) ∧
  decode (.command 0x00331005#32) = some (.arWrite64 false false false 5#5) ∧
  decode (.command 0x00040000#32) = some (.arExec 0#5 0#17) ∧
  decode (.command 0x00000000#32) = some (.arNop 0#5 0#17) ∧
  decode (.command 0x002207B0#32) = some (.arUnsup 0x2207B0#24) ∧
  decode (.command 0x01000000#32) = some (.quick 0#24) ∧
  decode (.command 0xFF000000#32) = some (.unknown128_255 0x7F000000#31) ∧
  decode (.load 0x80 8) = some (.loadExch 0x80 8) ∧
  decode (.store 0x10 [0x00#8]) = some (.storeExc 0x10 [0x00#8]) ∧
  decode (.event 8#4 0) = some .powerOn ∧
  decode (.hart 0x18502023#32) = some (.sw 0x180#12 5#5 0#5) ∧
  decode (.hart 0x18503023#32) = some (.sd 0x180#12 5#5 0#5) ∧
  decode (.hart 0x18002283#32) = some (.lw 0x180#12 0#5 5#5) ∧
  decode (.hart 0x18003283#32) = some (.ld 0x180#12 0#5 5#5) ∧
  decode (.hart 0x00100073#32) = some .ebreak ∧
  decode (.hart 0x01C0006F#32) = some (.jal 0x1C#21) ∧
  decode (.hart 0x0200006F#32) = some (.jal 0x20#21)

/-- R279: the word of every access instruction that the stager can write, for every register number, for `A = 0x180`; and
for any other `A` the word that the formulas of R273 and R275 give, with the `funct3` of the instruction. -/
def Obligations.AccessWords : Prop :=
  (∀ r : BitVec 5,
    encode (.sw 0x180#12 r 0#5) = .hart (0x18002023#32 + (r.setWidth 32 <<< 20)) ∧
    encode (.lw 0x180#12 0#5 r) = .hart (0x18002003#32 + (r.setWidth 32 <<< 7)) ∧
    encode (.sd 0x180#12 r 0#5) = .hart (0x18003023#32 + (r.setWidth 32 <<< 20)) ∧
    encode (.ld 0x180#12 0#5 r) = .hart (0x18003003#32 + (r.setWidth 32 <<< 7))) ∧
  (∀ (a : BitVec 12) (r : BitVec 5),
    encode (.sw a r 0#5) = .hart (storeWordAt a r 2#32) ∧ encode (.sd a r 0#5) = .hart (storeWordAt a r 3#32) ∧
    encode (.lw a 0#5 r) = .hart (loadWordAt a r 2#32) ∧ encode (.ld a 0#5 r) = .hart (loadWordAt a r 3#32))

/-! ## The step -/

/-- R9, R10, R258 (log 3): the step takes the oldest request; a request that decodes runs as its instruction, and a hart
that is stepped runs the word that stands at its pc, with `stepping` naming it. That the pc is not translated and the word
is not one the hart had cached is log 21, that the pc need be no multiple of 4 is log 22, that a pending interrupt is passed
over is log 3. -/
def Obligations.StepRunsTheDecodedInstruction : Prop :=
  (∀ (s : State) (rest : List Request) (p : Packet) (i : Instr),
    s.pending = .packet p :: rest → decode p = some i → step s = exec i { s with pending := rest }) ∧
  (∀ (s : State) (rest : List Request) (h off : Nat) (i : Instr),
    s.pending = .hartStep h :: rest → (readPc s h).toNat = dmBase s.params + off → Inside off 4 →
    decode (.hart (read32 s off)) = some i → step s = exec i { s with pending := rest, stepping := h })

/-- R153: a DMI access to an address outside the register map fails after `Sync()`, and changes nothing else. -/
def Obligations.UnmappedDmiAccessFails : Prop :=
  ∀ (s : State) (rest : List Request) (write : Bool) (a : Nat) (v : Word32),
    s.pending = .packet (.dmi write a v) :: rest → a ∉ mappedDmi →
    ∃ t, step s = .next t ∧ Answers t .fail [] ∧ SyncedOnly { s with pending := rest } t

/-- R220, R221, R88, R234: a load of any offset and length returns the bytes, lowest offset first, when it lies inside one
region, and fails otherwise; it changes nothing. -/
def Obligations.LoadServedExactlyInsideARegion : Prop :=
  ∀ (s : State) (rest : List Request) (off len : Nat), s.pending = .packet (.load off len) :: rest →
    ∃ t, step s = .next t ∧ Unchanged { s with pending := rest } t ∧
      (Inside off len → Answers t (.bytes ((List.range len).map (fun k => readByte s (off + k)))) []) ∧
      (¬Inside off len → Answers t .fail [])

/-- R220, R226 to R229, R234: a store of any offset and length changes exactly the bytes it names when it lies inside the
program buffer or the exchange buffer, and otherwise fails and writes nothing. -/
def Obligations.StoreServedExactlyInsideAWritableRegion : Prop :=
  ∀ (s : State) (rest : List Request) (off : Nat) (bytes : List Byte),
    s.pending = .packet (.store off bytes) :: rest →
    ∃ t, step s = .next t ∧ SameControl s t ∧ SameEngine s t ∧ SameTracker s t ∧ SameHarts s t ∧
      SameOutside { s with pending := rest } t ∧
      (InsideWritable off bytes.length → Answers t .ok [] ∧ Stored s t off bytes) ∧
      (¬InsideWritable off bytes.length → Answers t .fail [] ∧ SameStorage s t)

/-- R17, R293: every instruction of the table, in every state, answers; so does every request of the DMI, BUS, EVT and OWN
ports (an event tag above 8 is none, log 17). -/
def Obligations.EveryTransactionIsAnswered : Prop :=
  (∀ (i : Instr) (s : State), ∃ t, exec i s = .next t) ∧
  (∀ (s : State) (rest : List Request) (p : Packet), s.pending = .packet p :: rest →
    (∀ tag h, p = .event tag h → tag.toNat ≤ 8) → (∀ w, p ≠ .hart w) → ∃ t, step s = .next t ∧ t.pending = rest)

/-! ## DMI register operations -/

/-- R141, R140, R113: the value of `dmcontrol`; `hartstatus` is computed after `Sync()`. -/
def Obligations.ReadDmcontrol : Prop :=
  ∀ s : State, ConstantsHold s →
    ∃ t, exec .dmiReadDmcontrol s = .next t ∧ SyncedOnly s t ∧
      Answers t (.word (((BitVec.ofBool s.dmactive).setWidth 32 <<< 29) |||
        ((hartStatusCode (statusAfterSync s (selected s))).setWidth 32 <<< 26) |||
        (s.hartsel.setWidth 32 <<< 16) ||| 0x81#32)) []

/-- R145, R140, R116: the value of `abstractcs`. -/
def Obligations.ReadAbstractcs : Prop :=
  ∀ s : State, ConstantsHold s →
    ∃ t, exec .dmiReadAbstractcs s = .next t ∧ SyncedOnly s t ∧
      Answers t (.word ((s.autoexec.setWidth 32 <<< 16) ||| ((BitVec.ofBool s.busy).setWidth 32 <<< 12) |||
        ((cmderrCode s.cmderr).setWidth 32 <<< 8) ||| 8#32)) []

/-- R147, R140, R119, R125 (c): `command` reads as the last command recorded. The reserved bits of the word, 23 and 19 when its
`cmdtype` is 0, read as 0 or as recorded, as the parameter has it, since R125 (c) and R147 disagree on them (log 23). -/
def Obligations.ReadCommand : Prop :=
  ∀ s : State, ∃ t w, exec .dmiReadCommand s = .next t ∧ SyncedOnly s t ∧ Answers t (.word w) [] ∧
    ∀ n, n < 32 → w.getLsbD n =
      (s.lastCommand.getLsbD n &&
        !decide ((n = 23 ∨ n = 19) ∧ cmdtype s.lastCommand = 0 ∧ s.params.reservedCommandBits = .zero))

/-- R149, R85: each data slot reads as its four bytes of the exchange buffer, and triggers nothing. -/
def Obligations.ReadDataSlots : Prop :=
  ∀ (n : Nat) (i : Instr), (n, i) ∈ dataReads → ∀ s : State,
    ∃ t, exec i s = .next t ∧ SyncedOnly s t ∧
      Answers t (.word (readByte s (0x80 + 4 * n + 3) ++ readByte s (0x80 + 4 * n + 2) ++
        readByte s (0x80 + 4 * n + 1) ++ readByte s (0x80 + 4 * n))) []

/-- R151, R85: each program-buffer word reads as its four bytes. -/
def Obligations.ReadProgramBufferWords : Prop :=
  ∀ (n : Nat) (i : Instr), (n, i) ∈ progbufReads → ∀ s : State,
    ∃ t, exec i s = .next t ∧ SyncedOnly s t ∧
      Answers t (.word (readByte s (0x20 + 4 * n + 3) ++ readByte s (0x20 + 4 * n + 2) ++
        readByte s (0x20 + 4 * n + 1) ++ readByte s (0x20 + 4 * n))) []

/-- R142, R143, R144, R154: a `dmcontrol` write with `dmactive = 1`. With `h` the hart it selects, the reset request acts on
an existing hart first; the halt request then acts on a RUNNING hart and the resume request on a HALTED one. -/
def Obligations.WriteDmcontrol : Prop :=
  ∀ (s : State) (v : Word32), v.getLsbD 29 = true →
    let h := (v.extractLsb' 16 10).toNat
    let reset := v.getLsbD 30 = true ∧ hartExists s h = true
    let st : HartStatus :=
      if v.getLsbD 30 = true ∧ statusAfterSync s h = .halted then .running else statusAfterSync s h
    ∃ t, exec (.dmiWriteDmcontrol v) s = .next t ∧
      Answers t .ok ((if v.getLsbD 30 = true ∧ hartExists s h = true then [.hartReset h] else []) ++
        (if v.getLsbD 28 = true ∧ st = .halted then [.resume h] else [])) ∧
      t.dmactive = true ∧ t.hartsel = v.extractLsb' 16 10 ∧
      (∀ k, isHalted t k = true ↔
        (isHalted s k = true ∨ (k ∈ s.haltNotification ∧ hartExists s k = true)) ∧
          ¬(k = h ∧ (reset ∨ (v.getLsbD 28 = true ∧ st = .halted)))) ∧
      (∀ k, k ∈ t.interrupt ↔
        (k = h ∧ v.getLsbD 31 = true ∧ st = .running) ∨
          (k ∈ s.interrupt ∧ ¬(k ∈ s.haltNotification ∧ hartExists s k = true) ∧ ¬(k = h ∧ reset))) ∧
      t.haltNotification = [] ∧
      SameSettings s t ∧ SameEngine s t ∧ SameStorage s t ∧ SameHarts s t ∧ SameOutside s t

/-- R155, R330, R333: a `dmcontrol` write with `dmactive = 0` is `reset()` and nothing else. The exchange buffer keeps its
bytes, and no pulse is emitted. -/
def Obligations.SoftReset : Prop :=
  ∀ (s : State) (v : Word32), v.getLsbD 29 = false →
    ∃ t, exec (.dmiWriteDmcontrol v) s = .next t ∧ Answers t .ok [] ∧ ResetDone s t ∧ SameOutside s t ∧
      ∀ a, readByte t a =
        if a < 0x10 then imageByte s.params.romEntry.toList a
        else if 0x20 ≤ a ∧ a < 0x40 then 0#8 else readByte s a

/-- R146, R118: an `abstractcs` write stores the `autoexec` bits and clears `cmderr` when every 1 bit of its code is written
with 1; it calls nothing and touches nothing else, in flight or not. -/
def Obligations.WriteAbstractcs : Prop :=
  ∀ (s : State) (v : Word32),
    ∃ t, exec (.dmiWriteAbstractcs v) s = .next t ∧ Answers t .ok [] ∧
      (∀ n, n < 8 → t.autoexec.getLsbD n = v.getLsbD (16 + n)) ∧
      t.cmderr = (if cmderrCode s.cmderr &&& ~~~(v.extractLsb' 8 3) = 0#3 then .none else s.cmderr) ∧
      SameAction s t ∧ Synced s t ∧ SameStorage s t ∧ SameHarts s t ∧ SameOutside s t ∧
      t.dmactive = s.dmactive ∧ t.hartsel = s.hartsel ∧ t.authenticated = s.authenticated ∧
      t.authbusy = s.authbusy ∧ t.authtype = s.authtype ∧ t.version = s.version ∧ t.datacount = s.datacount

/-- R148, R181, R121, R180: writing a word to `command` runs `perform`, whose nine steps come to what the rule of the word's
class says. -/
def Obligations.CommandWriteRunsItsClass : Prop :=
  ∀ (s : State) (c : Word32), exec (.dmiWriteCommand c) s = exec (decodeCommand c) s

/-- R150, R85: a data-slot write stores its word; with `autoexec[n] = 0`, or with no command recorded, that is all. -/
def Obligations.WriteDataSlotWithoutReplay : Prop :=
  ∀ (v : Word32) (n : Nat) (i : Instr), (n, i) ∈ dataWrites v → ∀ s : State,
    (s.autoexec.getLsbD n = false ∨ s.lastCommandValid = false) →
    ∃ t, exec i s = .next t ∧ Answers t .ok [] ∧ Stored s t (0x80 + 4 * n) (littleEndian 4 v) ∧
      SameControl s t ∧ SameEngine s t ∧ Synced s t ∧ SameHarts s t ∧ SameOutside s t

/-- R150, R203, R180: with `autoexec[n] = 1` and a command recorded, the word is stored first and the recorded command is
then performed, exactly once and with all its preconditions. -/
def Obligations.WriteDataSlotReplaysTheCommand : Prop :=
  ∀ (v : Word32) (n : Nat) (i : Instr), (n, i) ∈ dataWrites v → ∀ s : State,
    s.autoexec.getLsbD n = true → s.lastCommandValid = true →
    ∃ u, u = { s with mem := u.mem } ∧ Stored s u (0x80 + 4 * n) (littleEndian 4 v) ∧
      exec i s = exec (.dmiWriteCommand s.lastCommand) u

/-- R152, R85: a program-buffer write stores its word and triggers nothing. -/
def Obligations.WriteProgramBufferWords : Prop :=
  ∀ (v : Word32) (n : Nat) (i : Instr), (n, i) ∈ progbufWrites v → ∀ s : State,
    ∃ t, exec i s = .next t ∧ Answers t .ok [] ∧ Stored s t (0x20 + 4 * n) (littleEndian 4 v) ∧
      SameControl s t ∧ SameEngine s t ∧ Synced s t ∧ SameHarts s t ∧ SameOutside s t

/-! ## The command classes -/

/-- R194, R195, R191, R192: the 32-bit accesses, on an idle engine with a halted hart. The words are those of R273 and R275
for the register of the command and the platform's `EXCH_ABS` (AccessWords), then EBREAK or the jump. That the released hart
stands at `ENTRY_ABS` at once is log 11. -/
def Obligations.Access32Stages : Prop :=
  ∀ (s : State) (b23 b19 p : Bool) (r : BitVec 5),
    EngineIdle s → statusAfterSync s (selected s) = .halted →
    (∃ t, exec (.arRead32 b23 b19 p r) s = .next t ∧ Answers t .ok [.release (selected s)] ∧
      StagedFor s t (transferWord 2#3 false b23 b19 p r)
        [storeWordAt (exchAddress s.params) r 2#32, if p then 0x01C0006F#32 else 0x00100073#32]) ∧
    (∃ t, exec (.arWrite32 b23 b19 p r) s = .next t ∧ Answers t .ok [.release (selected s)] ∧
      StagedFor s t (transferWord 2#3 true b23 b19 p r)
        [loadWordAt (exchAddress s.params) r 2#32, if p then 0x01C0006F#32 else 0x00100073#32])

/-- R196, R197, R191, R192: the 64-bit accesses, with `XLEN = 64`. The release at once is log 11. -/
def Obligations.Access64Stages : Prop :=
  ∀ (s : State) (b23 b19 p : Bool) (r : BitVec 5),
    EngineIdle s → statusAfterSync s (selected s) = .halted → s.params.xlen = .x64 →
    (∃ t, exec (.arRead64 b23 b19 p r) s = .next t ∧ Answers t .ok [.release (selected s)] ∧
      StagedFor s t (transferWord 3#3 false b23 b19 p r)
        [storeWordAt (exchAddress s.params) r 3#32, if p then 0x01C0006F#32 else 0x00100073#32]) ∧
    (∃ t, exec (.arWrite64 b23 b19 p r) s = .next t ∧ Answers t .ok [.release (selected s)] ∧
      StagedFor s t (transferWord 3#3 true b23 b19 p r)
        [loadWordAt (exchAddress s.params) r 3#32, if p then 0x01C0006F#32 else 0x00100073#32])

/-- R198, R191, R192: the program buffer alone is run by one staged jump. The release at once is log 11. -/
def Obligations.ExecuteStages : Prop :=
  ∀ (s : State) (hi : BitVec 5) (lo : BitVec 17), EngineIdle s → statusAfterSync s (selected s) = .halted →
    ∃ t, exec (.arExec hi lo) s = .next t ∧ Answers t .ok [.release (selected s)] ∧
      StagedFor s t (executeWord true hi lo) [0x0200006F#32]

/-- R199: a command with nothing to move and nothing to run is recorded, and nothing else changes. -/
def Obligations.NopIsOnlyRecorded : Prop :=
  ∀ (s : State) (hi : BitVec 5) (lo : BitVec 17), EngineIdle s → statusAfterSync s (selected s) = .halted →
    ∃ t, exec (.arNop hi lo) s = .next t ∧ Answers t .ok [] ∧ NothingStaged s t ∧
      Recorded t (executeWord false hi lo) ∧ t.cmderr = .none

/-- R200: an unsupported register or size, and a 64-bit access when `XLEN = 32`, give NOTSUP; the command is recorded. -/
def Obligations.UnsupportedAccess : Prop :=
  ∀ (s : State), EngineIdle s → statusAfterSync s (selected s) = .halted →
    (∀ low : BitVec 24, ∃ t, exec (.arUnsup low) s = .next t ∧ Answers t .ok [] ∧ NothingStaged s t ∧
      Recorded t (0#8 ++ low) ∧ t.cmderr = .notsup) ∧
    (s.params.xlen = .x32 → ∀ (b23 b19 p : Bool) (r : BitVec 5),
      (∃ t, exec (.arRead64 b23 b19 p r) s = .next t ∧ Answers t .ok [] ∧ NothingStaged s t ∧
        Recorded t (transferWord 3#3 false b23 b19 p r) ∧ t.cmderr = .notsup) ∧
      (∃ t, exec (.arWrite64 b23 b19 p r) s = .next t ∧ Answers t .ok [] ∧ NothingStaged s t ∧
        Recorded t (transferWord 3#3 true b23 b19 p r) ∧ t.cmderr = .notsup))

/-- R201, R202, R186: `quick` and the seven `unknown` rows, with every bit they leave free, give NOTSUP on any hart that
exists, halted or not. -/
def Obligations.QuickAndUnknownAreRefused : Prop :=
  ∀ (s : State) (i : Instr) (c : Word32), CarriesCommand i c → cmdtype c ≠ 0 →
    EngineIdle s → hartExists s (selected s) = true →
    ∃ t, exec i s = .next t ∧ Answers t .ok [] ∧ NothingStaged s t ∧ Recorded t c ∧ t.cmderr = .notsup

/-- R182: a command while one is in flight sets BUSY and changes nothing else, whatever its class. -/
def Obligations.CommandWhileBusy : Prop :=
  ∀ (s : State) (i : Instr) (c : Word32), CarriesCommand i c → s.busy = true →
    ∃ t, exec i s = .next t ∧ Answers t .ok [] ∧ t.cmderr = .busy ∧ SameAction s t ∧ SameControl s t ∧ Synced s t ∧
      SameStorage s t ∧ SameHarts s t ∧ SameOutside s t

/-- R183: while an error stands and nothing is in flight, a command does nothing at all, whatever its class. -/
def Obligations.CommandWhileErrorStands : Prop :=
  ∀ (s : State) (i : Instr) (c : Word32), CarriesCommand i c → s.busy = false → s.cmderr ≠ .none →
    ∃ t, exec i s = .next t ∧ Answers t .ok [] ∧ SyncedOnly s t

/-- R185, R297, R298: a command to a hart that does not exist records itself and `CMDERR_NOHART`, whatever its class;
`busy` does not rise. -/
def Obligations.CommandToNoSuchHart : Prop :=
  ∀ (s : State) (i : Instr) (c : Word32), CarriesCommand i c → EngineIdle s → hartExists s (selected s) = false →
    ∃ t, exec i s = .next t ∧ Answers t .ok [] ∧ NothingStaged s t ∧ Recorded t c ∧
      t.cmderr = noHartError s.params.noHart ∧ t.cmderr ≠ .none ∧ t.busy = false

/-- R186, R298: a register-access command to a hart that is RUNNING or UNAVAILABLE records itself and HALTRESUME, even one
that would be NOTSUP. -/
def Obligations.CommandToHartNotHalted : Prop :=
  ∀ (s : State) (i : Instr) (c : Word32), CarriesCommand i c → EngineIdle s → cmdtype c = 0 →
    (statusAfterSync s (selected s) = .running ∨ statusAfterSync s (selected s) = .unavailable) →
    ∃ t, exec i s = .next t ∧ Answers t .ok [] ∧ NothingStaged s t ∧ Recorded t c ∧ t.cmderr = .haltresume

/-! ## The device bus -/

/-- R222 to R225, R230: each region's load returns its bytes and changes nothing. -/
def Obligations.LoadsReturnTheRegion : Prop :=
  ∀ (s : State) (off len base sz : Nat) (i : Instr), (base, sz, i) ∈ loadRows off len →
    0 < len → base ≤ off → off + len ≤ base + sz →
    ∃ t, exec i s = .next t ∧ Unchanged s t ∧
      Answers t (.bytes ((List.range len).map (fun k => readByte s (off + k)))) []

/-- R227, R228, R229: a store to a ROM region fails and changes nothing, whatever is staged. -/
def Obligations.RomStoresAreRefused : Prop :=
  ∀ (s : State) (off : Nat) (bytes : List Byte) (i : Instr),
    i ∈ [.storeEntry off bytes, .storeExc off bytes, .storeCode off bytes] →
    ∃ t, exec i s = .next t ∧ Unchanged s t ∧ Answers t .fail []

/-- R231, R232, R91: a store inside the program buffer or the exchange buffer changes the bytes it names and triggers nothing. -/
def Obligations.StoresWriteTheirBytes : Prop :=
  ∀ (s : State) (off base : Nat) (bytes : List Byte) (i : Instr), (base, i) ∈ storeRows off bytes →
    0 < bytes.length → base ≤ off → off + bytes.length ≤ base + 0x20 →
    ∃ t, exec i s = .next t ∧ Answers t .ok [] ∧ Stored s t off bytes ∧
      SameControl s t ∧ SameEngine s t ∧ SameTracker s t ∧ SameHarts s t ∧ SameOutside s t

/-- R233: in the exchange buffer a store followed by a load of the same range returns the identical bytes. -/
def Obligations.ExchangeBufferRoundTrip : Prop :=
  ∀ (s : State) (off : Nat) (bytes : List Byte), 0 < bytes.length → 0x80 ≤ off → off + bytes.length ≤ 0xA0 →
    ∃ t u, exec (.storeExch off bytes) s = .next t ∧ exec (.loadExch off bytes.length) t = .next u ∧
      t.response = .ok ∧ u.response = .bytes bytes

/-- R46, R47, R86, R98: the two ports see one copy of the bytes. What a DMI write puts in a slot or in a program-buffer word
is what the very next BUS load returns, lowest byte first, and a word that the BUS stores in either is what the DMI reads. -/
def Obligations.TheTwoPortsSeeOneCopy : Prop :=
  (∀ (s : State) (v : Word32) (n : Nat) (i : Instr), (n, i) ∈ progbufWrites v →
    ∃ t u, exec i s = .next t ∧ exec (.loadProgbuf (0x20 + 4 * n) 4) t = .next u ∧
      u.response = .bytes (littleEndian 4 v)) ∧
  (∀ (s : State) (v : Word32) (n : Nat) (i : Instr), (n, i) ∈ dataWrites v →
    ∃ t u, exec i s = .next t ∧ exec (.loadExch (0x80 + 4 * n) 4) t = .next u ∧
      u.response = .bytes (littleEndian 4 v)) ∧
  (∀ (s : State) (v : Word32) (n : Nat) (i : Instr), (n, i) ∈ dataReads →
    ∃ t u, exec (.storeExch (0x80 + 4 * n) (littleEndian 4 v)) s = .next t ∧ exec i t = .next u ∧
      u.response = .word v) ∧
  (∀ (s : State) (v : Word32) (n : Nat) (i : Instr), (n, i) ∈ progbufReads →
    ∃ t u, exec (.storeProgbuf (0x20 + 4 * n) (littleEndian 4 v)) s = .next t ∧ exec i t = .next u ∧
      u.response = .word v)

/-! ## Events and power-on -/

/-- R240 to R244: the interrupt accessors change or tell membership of one id below `MAX_HARTS`, and nothing else. -/
def Obligations.InterruptAccessors : Prop :=
  ∀ (s : State) (h : Nat),
    (h < 1024 → ∃ t, exec (.setInterrupt h) s = .next t ∧ Answers t .ok [] ∧
      (∀ k, k ∈ t.interrupt ↔ k = h ∨ k ∈ s.interrupt) ∧ t.halted = s.halted ∧
      t.haltNotification = s.haltNotification ∧
      SameControl s t ∧ SameEngine s t ∧ SameStorage s t ∧ SameHarts s t ∧ SameOutside s t) ∧
    (h < 1024 → ∃ t, exec (.clearInterrupt h) s = .next t ∧ Answers t .ok [] ∧
      (∀ k, k ∈ t.interrupt ↔ k ≠ h ∧ k ∈ s.interrupt) ∧ t.halted = s.halted ∧
      t.haltNotification = s.haltNotification ∧
      SameControl s t ∧ SameEngine s t ∧ SameStorage s t ∧ SameHarts s t ∧ SameOutside s t) ∧
    (1024 ≤ h → (∃ t, exec (.setInterrupt h) s = .next t ∧ Answers t .fail [] ∧ Unchanged s t) ∧
      (∃ t, exec (.clearInterrupt h) s = .next t ∧ Answers t .fail [] ∧ Unchanged s t)) ∧
    (∃ t b, exec (.getInterrupt h) s = .next t ∧ Unchanged s t ∧ Answers t (.member b) [] ∧
      (b = true ↔ h < 1024 ∧ h ∈ s.interrupt))

/-- R240, R241, R245 to R247: the halt-notification accessors, likewise; none of them touches the halt table. -/
def Obligations.HaltNotificationAccessors : Prop :=
  ∀ (s : State) (h : Nat),
    (h < 1024 → ∃ t, exec (.setHaltNotification h) s = .next t ∧ Answers t .ok [] ∧
      (∀ k, k ∈ t.haltNotification ↔ k = h ∨ k ∈ s.haltNotification) ∧ t.halted = s.halted ∧
      t.interrupt = s.interrupt ∧
      SameControl s t ∧ SameEngine s t ∧ SameStorage s t ∧ SameHarts s t ∧ SameOutside s t) ∧
    (h < 1024 → ∃ t, exec (.clearHaltNotification h) s = .next t ∧ Answers t .ok [] ∧
      (∀ k, k ∈ t.haltNotification ↔ k ≠ h ∧ k ∈ s.haltNotification) ∧ t.halted = s.halted ∧
      t.interrupt = s.interrupt ∧
      SameControl s t ∧ SameEngine s t ∧ SameStorage s t ∧ SameHarts s t ∧ SameOutside s t) ∧
    (1024 ≤ h → (∃ t, exec (.setHaltNotification h) s = .next t ∧ Answers t .fail [] ∧ Unchanged s t) ∧
      (∃ t, exec (.clearHaltNotification h) s = .next t ∧ Answers t .fail [] ∧ Unchanged s t)) ∧
    (∃ t b, exec (.getHaltNotification h) s = .next t ∧ Unchanged s t ∧ Answers t (.member b) [] ∧
      (b = true ↔ h < 1024 ∧ h ∈ s.haltNotification))

/-- R251, R254: `action_executed` completes the action in flight and leaves `cmderr`; with none in flight it changes nothing. -/
def Obligations.ActionExecuted : Prop :=
  ∀ s : State,
    (s.busy = true → ∃ t, exec .actionExecuted s = .next t ∧ Answers t .none [] ∧ Completed s t ∧
      t.cmderr = s.cmderr ∧ SameControl s t ∧ SameTracker s t ∧ SameHarts s t ∧ SameOutside s t) ∧
    (s.busy = false → ∃ t, exec .actionExecuted s = .next t ∧ Answers t .none [] ∧ Unchanged s t)

/-- R252, R254: `action_faulted` completes the action in flight with EXCEPTION; with none in flight it changes nothing. -/
def Obligations.ActionFaulted : Prop :=
  ∀ s : State,
    (s.busy = true → ∃ t, exec .actionFaulted s = .next t ∧ Answers t .none [] ∧ Completed s t ∧
      t.cmderr = .exception ∧ SameControl s t ∧ SameTracker s t ∧ SameHarts s t ∧ SameOutside s t) ∧
    (s.busy = false → ∃ t, exec .actionFaulted s = .next t ∧ Answers t .none [] ∧ Unchanged s t)

/-- R332, R330: `power_on` is `reset()`, and then the exchange buffer holds 32 bytes that the spec leaves open: a free value
(log 2). The statement holds for every one of them. -/
def Obligations.PowerOn : Prop :=
  ∀ s : State, ∃ t, exec .powerOn s = .next t ∧ Answers t .none [] ∧ ResetDone s t ∧
    ∀ a, a < 0xA0 → readByte t a =
      if a < 0x10 then imageByte s.params.romEntry.toList a
      else if 0x20 ≤ a ∧ a < 0x40 then 0#8
      else if 0x80 ≤ a then (Config.exchInit s.freeCount).toList.getD (a - 0x80) 0#8
      else readByte s a

/-! ## The staged instruction words, as the hart `stepping` executes them (R281, log 8) -/

/-- R272 to R274, R258: SW and SD to an address inside the program buffer or the exchange buffer store the low 4 or all 8
bytes of the register through the BUS port and go on. The stager's words name offset 0x80 (R190). A base register other than
`x0`, another immediate and the pc in `XLEN` bits are log 13 (PRESUMED); no translation is log 21, no alignment log 22. -/
def Obligations.HartStoresReachTheBus : Prop :=
  (∀ (s : State) (h : Nat), effectiveAddress s h 0#5 (exchAddress s.params) = dmBase s.params + 0x80) ∧
  (∀ (s : State) (imm : BitVec 12) (rs2 rs1 : BitVec 5) (off : Nat),
    effectiveAddress s s.stepping rs1 imm = dmBase s.params + off →
    (InsideWritable off 4 →
      ∃ t, exec (.sw imm rs2 rs1) s = .next t ∧ Answers t .ok [] ∧
        Stored s t off (littleEndian 4 (readX s s.stepping rs2)) ∧ PcAdvanced s t s.stepping ∧
        SameRegisters s t ∧ SameControl s t ∧ SameEngine s t ∧ SameTracker s t ∧ SameOutside s t) ∧
    (InsideWritable off 8 → s.params.xlen = .x64 →
      ∃ t, exec (.sd imm rs2 rs1) s = .next t ∧ Answers t .ok [] ∧
        Stored s t off (littleEndian 8 (readX s s.stepping rs2)) ∧ PcAdvanced s t s.stepping ∧
        SameRegisters s t ∧ SameControl s t ∧ SameEngine s t ∧ SameTracker s t ∧ SameOutside s t))

/-- R275, R276, R258: LW and LD from an address inside a region load the 4 bytes, sign-extended to `XLEN`, or the 8 bytes
into `rd` through the BUS port and go on; nothing is written for `rd = x0`. A base register other than `x0`, another immediate
and the pc in `XLEN` bits are log 13 (PRESUMED); no translation is log 21, no alignment log 22. -/
def Obligations.HartLoadsReachTheBus : Prop :=
  ∀ (s : State) (imm : BitVec 12) (rs1 rd : BitVec 5) (off : Nat),
    effectiveAddress s s.stepping rs1 imm = dmBase s.params + off →
    (Inside off 4 →
      ∃ t, exec (.lw imm rs1 rd) s = .next t ∧
        (∀ k r, readX t k r = if k = s.stepping ∧ r = rd ∧ rd ≠ 0#5
          then clipXlen s.params ((read32 s off).signExtend 64) else readX s k r) ∧
        Answers t (.bytes ((List.range 4).map (fun k => readByte s (off + k)))) [] ∧
        PcAdvanced s t s.stepping ∧ SameStorage s t ∧ SameControl s t ∧ SameEngine s t ∧ SameTracker s t ∧
        SameOutside s t) ∧
    (Inside off 8 → s.params.xlen = .x64 →
      ∃ t, exec (.ld imm rs1 rd) s = .next t ∧
        (∀ k r, readX t k r = if k = s.stepping ∧ r = rd ∧ rd ≠ 0#5
          then read32 s (off + 4) ++ read32 s off else readX s k r) ∧
        Answers t (.bytes ((List.range 8).map (fun k => readByte s (off + k)))) [] ∧
        PcAdvanced s t s.stepping ∧ SameStorage s t ∧ SameControl s t ∧ SameEngine s t ∧ SameTracker s t ∧
        SameOutside s t)

/-- R277, R251, R253, R281 (d): EBREAK on the hart that carries the staged action completes the action, changes no register
and leaves the hart at a word of the debug ROM, the spec does not say which (log 10). Any other hart under the debugger
returns there too, and the block sees nothing (that code of the module is run under the debugger is log 10); a hart that is
not under it takes a trap of its own, at an address that is open (R308). -/
def Obligations.EbreakEndsTheSequence : Prop :=
  ∀ s : State,
    (Carries s s.stepping → ∃ t, exec .ebreak s = .next t ∧ Answers t .none [] ∧ Completed s t ∧ t.cmderr = s.cmderr ∧
      InDebugRom s.params (readPc t s.stepping) ∧
      SameControl s t ∧ SameTracker s t ∧ SameRegisters s t ∧ OtherPcsSame s t s.stepping ∧
      t.params = s.params ∧ t.unavailable = s.unavailable ∧ t.pending = s.pending ∧ t.stepping = s.stepping) ∧
    (¬Carries s s.stepping → ∃ t, exec .ebreak s = .next t ∧ Answers t .none [] ∧ OwnTrap s t s.stepping ∧
      (UnderDebugger s s.stepping → InDebugRom s.params (readPc t s.stepping)))

/-- R278: JAL moves the pc by its signed byte offset and writes no register. That the pc wraps at `XLEN` bits is the model's
choice (log 13, PRESUMED). That a jump to `EXC_ABS` reports no fault is log 12, and that a target that is no multiple of 4
is none either, log 22. -/
def Obligations.JalMovesThePc : Prop :=
  ∀ (s : State) (imm : BitVec 21),
    ∃ t, exec (.jal imm) s = .next t ∧ Answers t .none [] ∧
      (∀ k, readPc t k = if k = s.stepping then clipXlen s.params (readPc s s.stepping + imm.signExtend 64)
        else readPc s k) ∧
      SameRegisters s t ∧ SameStorage s t ∧ SameControl s t ∧ SameEngine s t ∧ SameTracker s t ∧ SameOutside s t

/-- R258, R252, R281 (c), R301: an access of the carrying hart that the BUS port refuses is an exception: the hart stands at
`EXC_ABS`, the action has faulted, no register and no byte outside the entry region has changed. Another hart in staged or
program-buffer code comes to `EXC_ABS` too and the block sees nothing; in any other code it is a trap of its own (log 10).
The model's choices: the fault is reported at once, and for the carrying hart wherever its pc is (log 12); an access that
starts in the module and runs past its end is a refused one (log 20, DEDUCED); base registers other than `x0` and other
immediates (log 13, PRESUMED); no translation (log 21) and no alignment (log 22); the response is the one of the access,
although the event comes after it (log 6). -/
def Obligations.RefusedHartAccessFaults : Prop :=
  ∀ (s : State) (imm : BitVec 12) (rs1 r : BitVec 5) (off : Nat) (i : Instr),
    effectiveAddress s s.stepping rs1 imm = dmBase s.params + off → off < 0xA0 →
    ((i = .sw imm r rs1 ∧ ¬InsideWritable off 4) ∨ (i = .lw imm rs1 r ∧ ¬Inside off 4) ∨
      (i = .sd imm r rs1 ∧ s.params.xlen = .x64 ∧ ¬InsideWritable off 8) ∨
      (i = .ld imm rs1 r ∧ s.params.xlen = .x64 ∧ ¬Inside off 8)) →
    (Carries s s.stepping → ∃ t, exec i s = .next t ∧ Answers t .fail [] ∧ FaultedAction s t s.stepping) ∧
    (¬Carries s s.stepping → ∃ t, exec i s = .next t ∧ Answers t .fail [] ∧ OwnTrap s t s.stepping ∧
      (InStagedCode s s.stepping → readPc t s.stepping = BitVec.ofNat 64 (dmBase s.params + 0x10)))

/-- R274, R276: SD and LD exist only when `XLEN = 64`. That the word is an exception of a 32-bit hart is log 12 (PRESUMED), with
any base register and immediate (log 13), and that the carrying hart's is reported wherever its pc is, log 12 too. -/
def Obligations.WideAccessOnNarrowHartFaults : Prop :=
  ∀ (s : State) (imm : BitVec 12) (rs1 r : BitVec 5) (i : Instr), s.params.xlen = .x32 →
    (i = .sd imm r rs1 ∨ i = .ld imm rs1 r) →
    (Carries s s.stepping → ∃ t, exec i s = .next t ∧ Answers t .none [] ∧ FaultedAction s t s.stepping) ∧
    (¬Carries s s.stepping → ∃ t, exec i s = .next t ∧ Answers t .none [] ∧ OwnTrap s t s.stepping ∧
      (InStagedCode s s.stepping → readPc t s.stepping = BitVec.ofNat 64 (dmBase s.params + 0x10)))

/-! ## Invariants -/

/-- R57: every step, from every state that satisfies items 1 to 7, gives a state that satisfies them. -/
def Obligations.EveryStepKeepsTheInvariants : Prop :=
  ∀ s t : State, SpecInvariant s → step s = .next t → SpecInvariant t

/-- R57, R59: the state after power-on satisfies items 1 to 7. -/
def Obligations.ResetSatisfiesTheInvariants : Prop :=
  SpecInvariant State.reset

/-- Log 15, R11, R56: every step keeps the canonical forms of memory, of the two sets and of the list of harts; it changes no
parameter. -/
def Obligations.EveryStepKeepsTheCanonicalForm : Prop :=
  (∀ s t : State, CanonicalForm s → step s = .next t → CanonicalForm t) ∧
  (∀ s t : State, step s = .next t → t.params = s.params) ∧
  CanonicalForm State.reset

/-- R59, R332, R334: the values after power-on, for every value of the parameters that R11 leaves open, and R11's `DM_BASE`.
The exchange buffer and the model's own fields are not stated. -/
def Obligations.ResetValues : Prop :=
  State.reset.dmactive = false ∧ State.reset.hartsel = 0#10 ∧ State.reset.authenticated = true ∧
  State.reset.authbusy = false ∧ State.reset.authtype = .noauth ∧ State.reset.version = 1#4 ∧
  State.reset.autoexec = 0#8 ∧ State.reset.cmderr = .none ∧ State.reset.busy = false ∧ State.reset.datacount = 8#4 ∧
  State.reset.lastCommand = 0#32 ∧ State.reset.lastCommandValid = false ∧
  (∀ a, 0x20 ≤ a → a < 0x40 → readByte State.reset a = 0#8) ∧
  (∀ a, a < 0x10 → readByte State.reset a = imageByte State.reset.params.romEntry.toList a) ∧
  (∀ h, isHalted State.reset h = false) ∧ State.reset.interrupt = [] ∧ State.reset.haltNotification = [] ∧
  State.reset.nextAction = none ∧ State.reset.actionExecuted = false ∧ dmBase State.reset.params = 0x100

/-- R48, R223, R225: a byte of the exception region and of the code region is the byte of its constant image, in every state
in canonical form; so no transaction changes one. -/
def Obligations.RomRegionsAreConstant : Prop :=
  ∀ s : State, CanonicalForm s →
    (∀ a, 0x10 ≤ a → a < 0x20 → readByte s a = imageByte s.params.romExc.toList (a - 0x10)) ∧
    (∀ a, 0x40 ≤ a → a < 0x80 → readByte s a = imageByte s.params.romCode.toList (a - 0x40))

/-! ## Rules about the whole machine -/

/-- R43, R205, R55: `busy` falls only by a completion event, by `reset()`, or by the hart that carries the action trapping or
faulting, which the model makes the completion event itself (log 10, log 12); and while it stands the staged action stays
what it is: no second command is staged over it. -/
def Obligations.OnlyCompletionOrResetEndsAFlight : Prop :=
  ∀ (i : Instr) (s t : State), exec i s = .next t → s.busy = true →
    (t.busy = false →
      i = .powerOn ∨ i = .actionExecuted ∨ i = .actionFaulted ∨
        (∃ v : Word32, i = .dmiWriteDmcontrol v ∧ v.getLsbD 29 = false) ∨
        (Carries s s.stepping ∧ ∃ w, encode i = .hart w)) ∧
    (t.busy = true → t.nextAction = s.nextAction ∧ t.actionExecuted = s.actionExecuted ∧
      ∀ a, a < 0x10 → readByte t a = readByte s a)

/-- R52, R309, R240: a hart becomes recorded as halted only when a DMI transaction folds a notification that it had made; no
BUS, EVT, OWN or hart operation does it. -/
def Obligations.HaltedIsSetOnlyBySync : Prop :=
  ∀ (i : Instr) (s t : State) (h : Nat), exec i s = .next t → isHalted s h = false → isHalted t h = true →
    h ∈ s.haltNotification ∧ hartExists s h = true ∧
      ((∃ w a v, encode i = .dmi w a v) ∨ ∃ c, encode i = .command c)

/-- R42, R303, R302: once an error stands it changes only to NONE, by the clearing write or by `reset()`, or, while an action
is in flight, to BUSY by a further command or by the replay of the recorded one, or to EXCEPTION by the fault of the action:
the event `action_faulted`, or a fault of the hart that carries the action, which the model reports at once (log 12). -/
def Obligations.CommandErrorIsSticky : Prop :=
  ∀ (i : Instr) (s t : State), exec i s = .next t → s.cmderr ≠ .none → t.cmderr ≠ s.cmderr →
    (t.cmderr = .none ∧
      (i = .powerOn ∨ (∃ v : Word32, i = .dmiWriteDmcontrol v ∧ v.getLsbD 29 = false) ∨
        ∃ v : Word32, i = .dmiWriteAbstractcs v ∧ cmderrCode s.cmderr &&& ~~~(v.extractLsb' 8 3) = 0#3)) ∨
    (s.busy = true ∧ t.cmderr = .busy ∧
      ((∃ c, CarriesCommand i c) ∨ ∃ v n, (n, i) ∈ dataWrites v ∧ s.autoexec.getLsbD n = true ∧ s.lastCommandValid = true)) ∨
    (s.busy = true ∧ t.cmderr = .exception ∧
      (i = .actionFaulted ∨ (Carries s s.stepping ∧ ∃ w, encode i = .hart w)))

/-! ## Whole sequences -/

/-- R194, R196, R280, R251 (logs 8, 10, 11, 21): the register read as the block intends it, 32 bits wide or, with `XLEN =
64`, 64 (`wide`), alone or followed by a program buffer that is one `ebreak` (`p`). From an idle engine with a halted hart,
the command and the hart's steps along the path of R280 leave the low 32 bits of the register in `data0` (and the high ones
in `data1`), `busy = 0`, no error, the entry region at its template, the hart in the debug ROM, every other byte and every
general register of every hart as before. -/
def Obligations.ReadRegisterThroughDataZero : Prop :=
  ∀ (s : State) (wide b23 b19 p : Bool) (r : BitVec 5) (rest : List Request),
    EngineIdle s → statusAfterSync s (selected s) = .halted →
    (wide = true → s.params.xlen = .x64) → (p = true → read32 s 0x20 = 0x00100073#32) →
    s.pending = .packet (encode (if wide then .arRead64 b23 b19 p r else .arRead32 b23 b19 p r)) ::
      (List.replicate (if p then 3 else 2) (.hartStep (selected s)) ++ rest) →
    ∃ t, Sys2Proof.core.run (if p then 4 else 3) s = .next t ∧ t.pending = rest ∧ t.busy = false ∧ t.cmderr = .none ∧
      read32 t 0x80 = (readX s (selected s) r).setWidth 32 ∧
      (wide = true → read32 t 0x84 = (readX s (selected s) r).extractLsb' 32 32) ∧
      (∀ a, a < 0x10 → readByte t a = imageByte s.params.romEntry.toList a) ∧
      (∀ a, 0x10 ≤ a → a < 0x80 ∨ (if wide then 0x88 else 0x84) ≤ a → readByte t a = readByte s a) ∧
      InDebugRom s.params (readPc t (selected s)) ∧
      SameRegisters s t ∧ OtherPcsSame s t (selected s) ∧ SameControl s t ∧ Synced s t

/-- R195, R197, R280, R251 (logs 8, 10, 11, 21): the register write, in the same four forms. The command and the hart's
steps leave `data0`, sign-extended to `XLEN`, or `data1` and `data0` together, in the register, the hart in the debug ROM,
and no other register and no byte but those of the entry region changed; `x0` is not written. -/
def Obligations.WriteRegisterThroughDataZero : Prop :=
  ∀ (s : State) (wide b23 b19 p : Bool) (r : BitVec 5) (rest : List Request),
    EngineIdle s → statusAfterSync s (selected s) = .halted →
    (wide = true → s.params.xlen = .x64) → (p = true → read32 s 0x20 = 0x00100073#32) →
    s.pending = .packet (encode (if wide then .arWrite64 b23 b19 p r else .arWrite32 b23 b19 p r)) ::
      (List.replicate (if p then 3 else 2) (.hartStep (selected s)) ++ rest) →
    ∃ t, Sys2Proof.core.run (if p then 4 else 3) s = .next t ∧ t.pending = rest ∧ t.busy = false ∧ t.cmderr = .none ∧
      (∀ k q, readX t k q = if k = selected s ∧ q = r ∧ r ≠ 0#5
        then (if wide then read32 s 0x84 ++ read32 s 0x80 else clipXlen s.params ((read32 s 0x80).signExtend 64))
        else readX s k q) ∧
      (∀ a, a < 0x10 → readByte t a = imageByte s.params.romEntry.toList a) ∧
      (∀ a, 0x10 ≤ a → readByte t a = readByte s a) ∧
      InDebugRom s.params (readPc t (selected s)) ∧
      OtherPcsSame s t (selected s) ∧ SameControl s t ∧ Synced s t

/-- R250, its six steps (the queue of requests is log 3; that one poll of the loop is step 3 and the hart's part of step 2 is
log 8). 1: the halt request of a RUNNING hart raises its debug interrupt. 2: `get_interrupt h` returns true. 2 and 3: the loop
polls, the hart fetches at `ENTRY_ABS` and has notified; until then it is RUNNING. 4: a DMI read of any address folds the
notification: the hart is HALTED, its interrupt has dropped, no notification is left. 5: `dmcontrol` reads HALTED (bits 27:26
are 0). 6: the resume request clears the entry of the halt table and emits `Resume(h)`. -/
def Obligations.LifeOfAHalt : Prop :=
  ∀ (s : State) (v u x y : Word32) (a : Nat) (rest : List Request),
    let h := (v.extractLsb' 16 10).toNat
    v.getLsbD 29 = true → v.getLsbD 31 = true → v.getLsbD 30 = false → statusAfterSync s h = .running →
    u.getLsbD 29 = true → u.getLsbD 28 = true → u.getLsbD 30 = false → u.extractLsb' 16 10 = v.extractLsb' 16 10 →
    s.pending = .packet (.dmi true 0x10 v) :: .packet (.event 2#4 h) :: .hartPoll h :: .packet (.dmi false a x) ::
      .packet (.dmi false 0x10 y) :: .packet (.dmi true 0x10 u) :: rest →
    ∃ t1 t2 t3 t4 t5 t6 value,
      (step s = .next t1 ∧ Answers t1 .ok [] ∧ debugInterrupt t1 h = true ∧ hartStatus t1 h = .running) ∧
      (step t1 = .next t2 ∧ Answers t2 (.member true) [] ∧ hartStatus t2 h = .running) ∧
      (step t2 = .next t3 ∧ readPc t3 h = BitVec.ofNat 64 (dmBase s.params) ∧ h ∈ t3.haltNotification ∧
        hartStatus t3 h = .running) ∧
      (step t3 = .next t4 ∧ isHalted t4 h = true ∧ debugInterrupt t4 h = false ∧ t4.haltNotification = [] ∧
        hartStatus t4 h = .halted) ∧
      (step t4 = .next t5 ∧ Answers t5 (.word value) [] ∧ value.extractLsb' 26 2 = 0#2) ∧
      (step t5 = .next t6 ∧ Answers t6 .ok [.resume h] ∧ isHalted t6 h = false ∧ debugInterrupt t6 h = false ∧
        t6.pending = rest)
end

