-- ==== Sys2Proof/Laws/State.lean ====
section
/-! SUPPORT. One lemma per field per named update of the state, each true by computation, so that no proof unfolds an update. -/

namespace Sys2Proof.Machine

variable (s : State)

@[simp] theorem respond_params (r : Response) : (respond r s).params = s.params := rfl
@[simp] theorem respond_dmactive (r : Response) : (respond r s).dmactive = s.dmactive := rfl
@[simp] theorem respond_hartsel (r : Response) : (respond r s).hartsel = s.hartsel := rfl
@[simp] theorem respond_authenticated (r : Response) : (respond r s).authenticated = s.authenticated := rfl
@[simp] theorem respond_authbusy (r : Response) : (respond r s).authbusy = s.authbusy := rfl
@[simp] theorem respond_authtype (r : Response) : (respond r s).authtype = s.authtype := rfl
@[simp] theorem respond_version (r : Response) : (respond r s).version = s.version := rfl
@[simp] theorem respond_autoexec (r : Response) : (respond r s).autoexec = s.autoexec := rfl
@[simp] theorem respond_cmderr (r : Response) : (respond r s).cmderr = s.cmderr := rfl
@[simp] theorem respond_busy (r : Response) : (respond r s).busy = s.busy := rfl
@[simp] theorem respond_datacount (r : Response) : (respond r s).datacount = s.datacount := rfl
@[simp] theorem respond_lastCommand (r : Response) : (respond r s).lastCommand = s.lastCommand := rfl
@[simp] theorem respond_lastCommandValid (r : Response) : (respond r s).lastCommandValid = s.lastCommandValid := rfl
@[simp] theorem respond_mem (r : Response) : (respond r s).mem = s.mem := rfl
@[simp] theorem respond_halted (r : Response) : (respond r s).halted = s.halted := rfl
@[simp] theorem respond_interrupt (r : Response) : (respond r s).interrupt = s.interrupt := rfl
@[simp] theorem respond_haltNotification (r : Response) : (respond r s).haltNotification = s.haltNotification := rfl
@[simp] theorem respond_nextAction (r : Response) : (respond r s).nextAction = s.nextAction := rfl
@[simp] theorem respond_actionExecuted (r : Response) : (respond r s).actionExecuted = s.actionExecuted := rfl
@[simp] theorem respond_unavailable (r : Response) : (respond r s).unavailable = s.unavailable := rfl
@[simp] theorem respond_harts (r : Response) : (respond r s).harts = s.harts := rfl
@[simp] theorem respond_stepping (r : Response) : (respond r s).stepping = s.stepping := rfl
@[simp] theorem respond_response (r : Response) : (respond r s).response = r := rfl
@[simp] theorem respond_pulses (r : Response) : (respond r s).pulses = s.pulses := rfl
@[simp] theorem respond_pending (r : Response) : (respond r s).pending = s.pending := rfl
@[simp] theorem respond_exchInit (r : Response) : (respond r s).exchInit = s.exchInit := rfl
@[simp] theorem respond_freeCount (r : Response) : (respond r s).freeCount = s.freeCount := rfl

@[simp] theorem clearPulses_params : (clearPulses s).params = s.params := rfl
@[simp] theorem clearPulses_dmactive : (clearPulses s).dmactive = s.dmactive := rfl
@[simp] theorem clearPulses_hartsel : (clearPulses s).hartsel = s.hartsel := rfl
@[simp] theorem clearPulses_authenticated : (clearPulses s).authenticated = s.authenticated := rfl
@[simp] theorem clearPulses_authbusy : (clearPulses s).authbusy = s.authbusy := rfl
@[simp] theorem clearPulses_authtype : (clearPulses s).authtype = s.authtype := rfl
@[simp] theorem clearPulses_version : (clearPulses s).version = s.version := rfl
@[simp] theorem clearPulses_autoexec : (clearPulses s).autoexec = s.autoexec := rfl
@[simp] theorem clearPulses_cmderr : (clearPulses s).cmderr = s.cmderr := rfl
@[simp] theorem clearPulses_busy : (clearPulses s).busy = s.busy := rfl
@[simp] theorem clearPulses_datacount : (clearPulses s).datacount = s.datacount := rfl
@[simp] theorem clearPulses_lastCommand : (clearPulses s).lastCommand = s.lastCommand := rfl
@[simp] theorem clearPulses_lastCommandValid : (clearPulses s).lastCommandValid = s.lastCommandValid := rfl
@[simp] theorem clearPulses_mem : (clearPulses s).mem = s.mem := rfl
@[simp] theorem clearPulses_halted : (clearPulses s).halted = s.halted := rfl
@[simp] theorem clearPulses_interrupt : (clearPulses s).interrupt = s.interrupt := rfl
@[simp] theorem clearPulses_haltNotification : (clearPulses s).haltNotification = s.haltNotification := rfl
@[simp] theorem clearPulses_nextAction : (clearPulses s).nextAction = s.nextAction := rfl
@[simp] theorem clearPulses_actionExecuted : (clearPulses s).actionExecuted = s.actionExecuted := rfl
@[simp] theorem clearPulses_unavailable : (clearPulses s).unavailable = s.unavailable := rfl
@[simp] theorem clearPulses_harts : (clearPulses s).harts = s.harts := rfl
@[simp] theorem clearPulses_stepping : (clearPulses s).stepping = s.stepping := rfl
@[simp] theorem clearPulses_response : (clearPulses s).response = s.response := rfl
@[simp] theorem clearPulses_pulses : (clearPulses s).pulses = [] := rfl
@[simp] theorem clearPulses_pending : (clearPulses s).pending = s.pending := rfl
@[simp] theorem clearPulses_exchInit : (clearPulses s).exchInit = s.exchInit := rfl
@[simp] theorem clearPulses_freeCount : (clearPulses s).freeCount = s.freeCount := rfl

@[simp] theorem emit_params (p : Pulse) : (emit p s).params = s.params := rfl
@[simp] theorem emit_dmactive (p : Pulse) : (emit p s).dmactive = s.dmactive := rfl
@[simp] theorem emit_hartsel (p : Pulse) : (emit p s).hartsel = s.hartsel := rfl
@[simp] theorem emit_authenticated (p : Pulse) : (emit p s).authenticated = s.authenticated := rfl
@[simp] theorem emit_authbusy (p : Pulse) : (emit p s).authbusy = s.authbusy := rfl
@[simp] theorem emit_authtype (p : Pulse) : (emit p s).authtype = s.authtype := rfl
@[simp] theorem emit_version (p : Pulse) : (emit p s).version = s.version := rfl
@[simp] theorem emit_autoexec (p : Pulse) : (emit p s).autoexec = s.autoexec := rfl
@[simp] theorem emit_cmderr (p : Pulse) : (emit p s).cmderr = s.cmderr := rfl
@[simp] theorem emit_busy (p : Pulse) : (emit p s).busy = s.busy := rfl
@[simp] theorem emit_datacount (p : Pulse) : (emit p s).datacount = s.datacount := rfl
@[simp] theorem emit_lastCommand (p : Pulse) : (emit p s).lastCommand = s.lastCommand := rfl
@[simp] theorem emit_lastCommandValid (p : Pulse) : (emit p s).lastCommandValid = s.lastCommandValid := rfl
@[simp] theorem emit_mem (p : Pulse) : (emit p s).mem = s.mem := rfl
@[simp] theorem emit_halted (p : Pulse) : (emit p s).halted = s.halted := rfl
@[simp] theorem emit_interrupt (p : Pulse) : (emit p s).interrupt = s.interrupt := rfl
@[simp] theorem emit_haltNotification (p : Pulse) : (emit p s).haltNotification = s.haltNotification := rfl
@[simp] theorem emit_nextAction (p : Pulse) : (emit p s).nextAction = s.nextAction := rfl
@[simp] theorem emit_actionExecuted (p : Pulse) : (emit p s).actionExecuted = s.actionExecuted := rfl
@[simp] theorem emit_unavailable (p : Pulse) : (emit p s).unavailable = s.unavailable := rfl
@[simp] theorem emit_harts (p : Pulse) : (emit p s).harts = s.harts := rfl
@[simp] theorem emit_stepping (p : Pulse) : (emit p s).stepping = s.stepping := rfl
@[simp] theorem emit_response (p : Pulse) : (emit p s).response = s.response := rfl
@[simp] theorem emit_pulses (p : Pulse) : (emit p s).pulses = s.pulses ++ [p] := rfl
@[simp] theorem emit_pending (p : Pulse) : (emit p s).pending = s.pending := rfl
@[simp] theorem emit_exchInit (p : Pulse) : (emit p s).exchInit = s.exchInit := rfl
@[simp] theorem emit_freeCount (p : Pulse) : (emit p s).freeCount = s.freeCount := rfl

@[simp] theorem setCmderr_params (e : CmdErr) : (setCmderr e s).params = s.params := rfl
@[simp] theorem setCmderr_dmactive (e : CmdErr) : (setCmderr e s).dmactive = s.dmactive := rfl
@[simp] theorem setCmderr_hartsel (e : CmdErr) : (setCmderr e s).hartsel = s.hartsel := rfl
@[simp] theorem setCmderr_authenticated (e : CmdErr) : (setCmderr e s).authenticated = s.authenticated := rfl
@[simp] theorem setCmderr_authbusy (e : CmdErr) : (setCmderr e s).authbusy = s.authbusy := rfl
@[simp] theorem setCmderr_authtype (e : CmdErr) : (setCmderr e s).authtype = s.authtype := rfl
@[simp] theorem setCmderr_version (e : CmdErr) : (setCmderr e s).version = s.version := rfl
@[simp] theorem setCmderr_autoexec (e : CmdErr) : (setCmderr e s).autoexec = s.autoexec := rfl
@[simp] theorem setCmderr_cmderr (e : CmdErr) : (setCmderr e s).cmderr = e := rfl
@[simp] theorem setCmderr_busy (e : CmdErr) : (setCmderr e s).busy = s.busy := rfl
@[simp] theorem setCmderr_datacount (e : CmdErr) : (setCmderr e s).datacount = s.datacount := rfl
@[simp] theorem setCmderr_lastCommand (e : CmdErr) : (setCmderr e s).lastCommand = s.lastCommand := rfl
@[simp] theorem setCmderr_lastCommandValid (e : CmdErr) : (setCmderr e s).lastCommandValid = s.lastCommandValid := rfl
@[simp] theorem setCmderr_mem (e : CmdErr) : (setCmderr e s).mem = s.mem := rfl
@[simp] theorem setCmderr_halted (e : CmdErr) : (setCmderr e s).halted = s.halted := rfl
@[simp] theorem setCmderr_interrupt (e : CmdErr) : (setCmderr e s).interrupt = s.interrupt := rfl
@[simp] theorem setCmderr_haltNotification (e : CmdErr) : (setCmderr e s).haltNotification = s.haltNotification := rfl
@[simp] theorem setCmderr_nextAction (e : CmdErr) : (setCmderr e s).nextAction = s.nextAction := rfl
@[simp] theorem setCmderr_actionExecuted (e : CmdErr) : (setCmderr e s).actionExecuted = s.actionExecuted := rfl
@[simp] theorem setCmderr_unavailable (e : CmdErr) : (setCmderr e s).unavailable = s.unavailable := rfl
@[simp] theorem setCmderr_harts (e : CmdErr) : (setCmderr e s).harts = s.harts := rfl
@[simp] theorem setCmderr_stepping (e : CmdErr) : (setCmderr e s).stepping = s.stepping := rfl
@[simp] theorem setCmderr_response (e : CmdErr) : (setCmderr e s).response = s.response := rfl
@[simp] theorem setCmderr_pulses (e : CmdErr) : (setCmderr e s).pulses = s.pulses := rfl
@[simp] theorem setCmderr_pending (e : CmdErr) : (setCmderr e s).pending = s.pending := rfl
@[simp] theorem setCmderr_exchInit (e : CmdErr) : (setCmderr e s).exchInit = s.exchInit := rfl
@[simp] theorem setCmderr_freeCount (e : CmdErr) : (setCmderr e s).freeCount = s.freeCount := rfl

@[simp] theorem setHalted_params (h : Nat) (b : Bool) : (setHalted h b s).params = s.params := rfl
@[simp] theorem setHalted_dmactive (h : Nat) (b : Bool) : (setHalted h b s).dmactive = s.dmactive := rfl
@[simp] theorem setHalted_hartsel (h : Nat) (b : Bool) : (setHalted h b s).hartsel = s.hartsel := rfl
@[simp] theorem setHalted_authenticated (h : Nat) (b : Bool) : (setHalted h b s).authenticated = s.authenticated := rfl
@[simp] theorem setHalted_authbusy (h : Nat) (b : Bool) : (setHalted h b s).authbusy = s.authbusy := rfl
@[simp] theorem setHalted_authtype (h : Nat) (b : Bool) : (setHalted h b s).authtype = s.authtype := rfl
@[simp] theorem setHalted_version (h : Nat) (b : Bool) : (setHalted h b s).version = s.version := rfl
@[simp] theorem setHalted_autoexec (h : Nat) (b : Bool) : (setHalted h b s).autoexec = s.autoexec := rfl
@[simp] theorem setHalted_cmderr (h : Nat) (b : Bool) : (setHalted h b s).cmderr = s.cmderr := rfl
@[simp] theorem setHalted_busy (h : Nat) (b : Bool) : (setHalted h b s).busy = s.busy := rfl
@[simp] theorem setHalted_datacount (h : Nat) (b : Bool) : (setHalted h b s).datacount = s.datacount := rfl
@[simp] theorem setHalted_lastCommand (h : Nat) (b : Bool) : (setHalted h b s).lastCommand = s.lastCommand := rfl
@[simp] theorem setHalted_lastCommandValid (h : Nat) (b : Bool) : (setHalted h b s).lastCommandValid = s.lastCommandValid := rfl
@[simp] theorem setHalted_mem (h : Nat) (b : Bool) : (setHalted h b s).mem = s.mem := rfl
@[simp] theorem setHalted_halted (h : Nat) (b : Bool) : (setHalted h b s).halted = if b then s.halted ||| BitVec.twoPow 1024 h else s.halted &&& ~~~(BitVec.twoPow 1024 h) := rfl
@[simp] theorem setHalted_interrupt (h : Nat) (b : Bool) : (setHalted h b s).interrupt = s.interrupt := rfl
@[simp] theorem setHalted_haltNotification (h : Nat) (b : Bool) : (setHalted h b s).haltNotification = s.haltNotification := rfl
@[simp] theorem setHalted_nextAction (h : Nat) (b : Bool) : (setHalted h b s).nextAction = s.nextAction := rfl
@[simp] theorem setHalted_actionExecuted (h : Nat) (b : Bool) : (setHalted h b s).actionExecuted = s.actionExecuted := rfl
@[simp] theorem setHalted_unavailable (h : Nat) (b : Bool) : (setHalted h b s).unavailable = s.unavailable := rfl
@[simp] theorem setHalted_harts (h : Nat) (b : Bool) : (setHalted h b s).harts = s.harts := rfl
@[simp] theorem setHalted_stepping (h : Nat) (b : Bool) : (setHalted h b s).stepping = s.stepping := rfl
@[simp] theorem setHalted_response (h : Nat) (b : Bool) : (setHalted h b s).response = s.response := rfl
@[simp] theorem setHalted_pulses (h : Nat) (b : Bool) : (setHalted h b s).pulses = s.pulses := rfl
@[simp] theorem setHalted_pending (h : Nat) (b : Bool) : (setHalted h b s).pending = s.pending := rfl
@[simp] theorem setHalted_exchInit (h : Nat) (b : Bool) : (setHalted h b s).exchInit = s.exchInit := rfl
@[simp] theorem setHalted_freeCount (h : Nat) (b : Bool) : (setHalted h b s).freeCount = s.freeCount := rfl

@[simp] theorem addInterrupt_params (h : Nat) : (addInterrupt h s).params = s.params := rfl
@[simp] theorem addInterrupt_dmactive (h : Nat) : (addInterrupt h s).dmactive = s.dmactive := rfl
@[simp] theorem addInterrupt_hartsel (h : Nat) : (addInterrupt h s).hartsel = s.hartsel := rfl
@[simp] theorem addInterrupt_authenticated (h : Nat) : (addInterrupt h s).authenticated = s.authenticated := rfl
@[simp] theorem addInterrupt_authbusy (h : Nat) : (addInterrupt h s).authbusy = s.authbusy := rfl
@[simp] theorem addInterrupt_authtype (h : Nat) : (addInterrupt h s).authtype = s.authtype := rfl
@[simp] theorem addInterrupt_version (h : Nat) : (addInterrupt h s).version = s.version := rfl
@[simp] theorem addInterrupt_autoexec (h : Nat) : (addInterrupt h s).autoexec = s.autoexec := rfl
@[simp] theorem addInterrupt_cmderr (h : Nat) : (addInterrupt h s).cmderr = s.cmderr := rfl
@[simp] theorem addInterrupt_busy (h : Nat) : (addInterrupt h s).busy = s.busy := rfl
@[simp] theorem addInterrupt_datacount (h : Nat) : (addInterrupt h s).datacount = s.datacount := rfl
@[simp] theorem addInterrupt_lastCommand (h : Nat) : (addInterrupt h s).lastCommand = s.lastCommand := rfl
@[simp] theorem addInterrupt_lastCommandValid (h : Nat) : (addInterrupt h s).lastCommandValid = s.lastCommandValid := rfl
@[simp] theorem addInterrupt_mem (h : Nat) : (addInterrupt h s).mem = s.mem := rfl
@[simp] theorem addInterrupt_halted (h : Nat) : (addInterrupt h s).halted = s.halted := rfl
@[simp] theorem addInterrupt_interrupt (h : Nat) : (addInterrupt h s).interrupt = insertId s.interrupt h := rfl
@[simp] theorem addInterrupt_haltNotification (h : Nat) : (addInterrupt h s).haltNotification = s.haltNotification := rfl
@[simp] theorem addInterrupt_nextAction (h : Nat) : (addInterrupt h s).nextAction = s.nextAction := rfl
@[simp] theorem addInterrupt_actionExecuted (h : Nat) : (addInterrupt h s).actionExecuted = s.actionExecuted := rfl
@[simp] theorem addInterrupt_unavailable (h : Nat) : (addInterrupt h s).unavailable = s.unavailable := rfl
@[simp] theorem addInterrupt_harts (h : Nat) : (addInterrupt h s).harts = s.harts := rfl
@[simp] theorem addInterrupt_stepping (h : Nat) : (addInterrupt h s).stepping = s.stepping := rfl
@[simp] theorem addInterrupt_response (h : Nat) : (addInterrupt h s).response = s.response := rfl
@[simp] theorem addInterrupt_pulses (h : Nat) : (addInterrupt h s).pulses = s.pulses := rfl
@[simp] theorem addInterrupt_pending (h : Nat) : (addInterrupt h s).pending = s.pending := rfl
@[simp] theorem addInterrupt_exchInit (h : Nat) : (addInterrupt h s).exchInit = s.exchInit := rfl
@[simp] theorem addInterrupt_freeCount (h : Nat) : (addInterrupt h s).freeCount = s.freeCount := rfl

@[simp] theorem dropInterrupt_params (h : Nat) : (dropInterrupt h s).params = s.params := rfl
@[simp] theorem dropInterrupt_dmactive (h : Nat) : (dropInterrupt h s).dmactive = s.dmactive := rfl
@[simp] theorem dropInterrupt_hartsel (h : Nat) : (dropInterrupt h s).hartsel = s.hartsel := rfl
@[simp] theorem dropInterrupt_authenticated (h : Nat) : (dropInterrupt h s).authenticated = s.authenticated := rfl
@[simp] theorem dropInterrupt_authbusy (h : Nat) : (dropInterrupt h s).authbusy = s.authbusy := rfl
@[simp] theorem dropInterrupt_authtype (h : Nat) : (dropInterrupt h s).authtype = s.authtype := rfl
@[simp] theorem dropInterrupt_version (h : Nat) : (dropInterrupt h s).version = s.version := rfl
@[simp] theorem dropInterrupt_autoexec (h : Nat) : (dropInterrupt h s).autoexec = s.autoexec := rfl
@[simp] theorem dropInterrupt_cmderr (h : Nat) : (dropInterrupt h s).cmderr = s.cmderr := rfl
@[simp] theorem dropInterrupt_busy (h : Nat) : (dropInterrupt h s).busy = s.busy := rfl
@[simp] theorem dropInterrupt_datacount (h : Nat) : (dropInterrupt h s).datacount = s.datacount := rfl
@[simp] theorem dropInterrupt_lastCommand (h : Nat) : (dropInterrupt h s).lastCommand = s.lastCommand := rfl
@[simp] theorem dropInterrupt_lastCommandValid (h : Nat) : (dropInterrupt h s).lastCommandValid = s.lastCommandValid := rfl
@[simp] theorem dropInterrupt_mem (h : Nat) : (dropInterrupt h s).mem = s.mem := rfl
@[simp] theorem dropInterrupt_halted (h : Nat) : (dropInterrupt h s).halted = s.halted := rfl
@[simp] theorem dropInterrupt_interrupt (h : Nat) : (dropInterrupt h s).interrupt = removeId s.interrupt h := rfl
@[simp] theorem dropInterrupt_haltNotification (h : Nat) : (dropInterrupt h s).haltNotification = s.haltNotification := rfl
@[simp] theorem dropInterrupt_nextAction (h : Nat) : (dropInterrupt h s).nextAction = s.nextAction := rfl
@[simp] theorem dropInterrupt_actionExecuted (h : Nat) : (dropInterrupt h s).actionExecuted = s.actionExecuted := rfl
@[simp] theorem dropInterrupt_unavailable (h : Nat) : (dropInterrupt h s).unavailable = s.unavailable := rfl
@[simp] theorem dropInterrupt_harts (h : Nat) : (dropInterrupt h s).harts = s.harts := rfl
@[simp] theorem dropInterrupt_stepping (h : Nat) : (dropInterrupt h s).stepping = s.stepping := rfl
@[simp] theorem dropInterrupt_response (h : Nat) : (dropInterrupt h s).response = s.response := rfl
@[simp] theorem dropInterrupt_pulses (h : Nat) : (dropInterrupt h s).pulses = s.pulses := rfl
@[simp] theorem dropInterrupt_pending (h : Nat) : (dropInterrupt h s).pending = s.pending := rfl
@[simp] theorem dropInterrupt_exchInit (h : Nat) : (dropInterrupt h s).exchInit = s.exchInit := rfl
@[simp] theorem dropInterrupt_freeCount (h : Nat) : (dropInterrupt h s).freeCount = s.freeCount := rfl

@[simp] theorem addNotification_params (h : Nat) : (addNotification h s).params = s.params := rfl
@[simp] theorem addNotification_dmactive (h : Nat) : (addNotification h s).dmactive = s.dmactive := rfl
@[simp] theorem addNotification_hartsel (h : Nat) : (addNotification h s).hartsel = s.hartsel := rfl
@[simp] theorem addNotification_authenticated (h : Nat) : (addNotification h s).authenticated = s.authenticated := rfl
@[simp] theorem addNotification_authbusy (h : Nat) : (addNotification h s).authbusy = s.authbusy := rfl
@[simp] theorem addNotification_authtype (h : Nat) : (addNotification h s).authtype = s.authtype := rfl
@[simp] theorem addNotification_version (h : Nat) : (addNotification h s).version = s.version := rfl
@[simp] theorem addNotification_autoexec (h : Nat) : (addNotification h s).autoexec = s.autoexec := rfl
@[simp] theorem addNotification_cmderr (h : Nat) : (addNotification h s).cmderr = s.cmderr := rfl
@[simp] theorem addNotification_busy (h : Nat) : (addNotification h s).busy = s.busy := rfl
@[simp] theorem addNotification_datacount (h : Nat) : (addNotification h s).datacount = s.datacount := rfl
@[simp] theorem addNotification_lastCommand (h : Nat) : (addNotification h s).lastCommand = s.lastCommand := rfl
@[simp] theorem addNotification_lastCommandValid (h : Nat) : (addNotification h s).lastCommandValid = s.lastCommandValid := rfl
@[simp] theorem addNotification_mem (h : Nat) : (addNotification h s).mem = s.mem := rfl
@[simp] theorem addNotification_halted (h : Nat) : (addNotification h s).halted = s.halted := rfl
@[simp] theorem addNotification_interrupt (h : Nat) : (addNotification h s).interrupt = s.interrupt := rfl
@[simp] theorem addNotification_haltNotification (h : Nat) : (addNotification h s).haltNotification = insertId s.haltNotification h := rfl
@[simp] theorem addNotification_nextAction (h : Nat) : (addNotification h s).nextAction = s.nextAction := rfl
@[simp] theorem addNotification_actionExecuted (h : Nat) : (addNotification h s).actionExecuted = s.actionExecuted := rfl
@[simp] theorem addNotification_unavailable (h : Nat) : (addNotification h s).unavailable = s.unavailable := rfl
@[simp] theorem addNotification_harts (h : Nat) : (addNotification h s).harts = s.harts := rfl
@[simp] theorem addNotification_stepping (h : Nat) : (addNotification h s).stepping = s.stepping := rfl
@[simp] theorem addNotification_response (h : Nat) : (addNotification h s).response = s.response := rfl
@[simp] theorem addNotification_pulses (h : Nat) : (addNotification h s).pulses = s.pulses := rfl
@[simp] theorem addNotification_pending (h : Nat) : (addNotification h s).pending = s.pending := rfl
@[simp] theorem addNotification_exchInit (h : Nat) : (addNotification h s).exchInit = s.exchInit := rfl
@[simp] theorem addNotification_freeCount (h : Nat) : (addNotification h s).freeCount = s.freeCount := rfl

@[simp] theorem dropNotification_params (h : Nat) : (dropNotification h s).params = s.params := rfl
@[simp] theorem dropNotification_dmactive (h : Nat) : (dropNotification h s).dmactive = s.dmactive := rfl
@[simp] theorem dropNotification_hartsel (h : Nat) : (dropNotification h s).hartsel = s.hartsel := rfl
@[simp] theorem dropNotification_authenticated (h : Nat) : (dropNotification h s).authenticated = s.authenticated := rfl
@[simp] theorem dropNotification_authbusy (h : Nat) : (dropNotification h s).authbusy = s.authbusy := rfl
@[simp] theorem dropNotification_authtype (h : Nat) : (dropNotification h s).authtype = s.authtype := rfl
@[simp] theorem dropNotification_version (h : Nat) : (dropNotification h s).version = s.version := rfl
@[simp] theorem dropNotification_autoexec (h : Nat) : (dropNotification h s).autoexec = s.autoexec := rfl
@[simp] theorem dropNotification_cmderr (h : Nat) : (dropNotification h s).cmderr = s.cmderr := rfl
@[simp] theorem dropNotification_busy (h : Nat) : (dropNotification h s).busy = s.busy := rfl
@[simp] theorem dropNotification_datacount (h : Nat) : (dropNotification h s).datacount = s.datacount := rfl
@[simp] theorem dropNotification_lastCommand (h : Nat) : (dropNotification h s).lastCommand = s.lastCommand := rfl
@[simp] theorem dropNotification_lastCommandValid (h : Nat) : (dropNotification h s).lastCommandValid = s.lastCommandValid := rfl
@[simp] theorem dropNotification_mem (h : Nat) : (dropNotification h s).mem = s.mem := rfl
@[simp] theorem dropNotification_halted (h : Nat) : (dropNotification h s).halted = s.halted := rfl
@[simp] theorem dropNotification_interrupt (h : Nat) : (dropNotification h s).interrupt = s.interrupt := rfl
@[simp] theorem dropNotification_haltNotification (h : Nat) : (dropNotification h s).haltNotification = removeId s.haltNotification h := rfl
@[simp] theorem dropNotification_nextAction (h : Nat) : (dropNotification h s).nextAction = s.nextAction := rfl
@[simp] theorem dropNotification_actionExecuted (h : Nat) : (dropNotification h s).actionExecuted = s.actionExecuted := rfl
@[simp] theorem dropNotification_unavailable (h : Nat) : (dropNotification h s).unavailable = s.unavailable := rfl
@[simp] theorem dropNotification_harts (h : Nat) : (dropNotification h s).harts = s.harts := rfl
@[simp] theorem dropNotification_stepping (h : Nat) : (dropNotification h s).stepping = s.stepping := rfl
@[simp] theorem dropNotification_response (h : Nat) : (dropNotification h s).response = s.response := rfl
@[simp] theorem dropNotification_pulses (h : Nat) : (dropNotification h s).pulses = s.pulses := rfl
@[simp] theorem dropNotification_pending (h : Nat) : (dropNotification h s).pending = s.pending := rfl
@[simp] theorem dropNotification_exchInit (h : Nat) : (dropNotification h s).exchInit = s.exchInit := rfl
@[simp] theorem dropNotification_freeCount (h : Nat) : (dropNotification h s).freeCount = s.freeCount := rfl

@[simp] theorem writeBytes_params (off : Nat) (bs : List Byte) : (writeBytes s off bs).params = s.params := rfl
@[simp] theorem writeBytes_dmactive (off : Nat) (bs : List Byte) : (writeBytes s off bs).dmactive = s.dmactive := rfl
@[simp] theorem writeBytes_hartsel (off : Nat) (bs : List Byte) : (writeBytes s off bs).hartsel = s.hartsel := rfl
@[simp] theorem writeBytes_authenticated (off : Nat) (bs : List Byte) : (writeBytes s off bs).authenticated = s.authenticated := rfl
@[simp] theorem writeBytes_authbusy (off : Nat) (bs : List Byte) : (writeBytes s off bs).authbusy = s.authbusy := rfl
@[simp] theorem writeBytes_authtype (off : Nat) (bs : List Byte) : (writeBytes s off bs).authtype = s.authtype := rfl
@[simp] theorem writeBytes_version (off : Nat) (bs : List Byte) : (writeBytes s off bs).version = s.version := rfl
@[simp] theorem writeBytes_autoexec (off : Nat) (bs : List Byte) : (writeBytes s off bs).autoexec = s.autoexec := rfl
@[simp] theorem writeBytes_cmderr (off : Nat) (bs : List Byte) : (writeBytes s off bs).cmderr = s.cmderr := rfl
@[simp] theorem writeBytes_busy (off : Nat) (bs : List Byte) : (writeBytes s off bs).busy = s.busy := rfl
@[simp] theorem writeBytes_datacount (off : Nat) (bs : List Byte) : (writeBytes s off bs).datacount = s.datacount := rfl
@[simp] theorem writeBytes_lastCommand (off : Nat) (bs : List Byte) : (writeBytes s off bs).lastCommand = s.lastCommand := rfl
@[simp] theorem writeBytes_lastCommandValid (off : Nat) (bs : List Byte) : (writeBytes s off bs).lastCommandValid = s.lastCommandValid := rfl
@[simp] theorem writeBytes_mem (off : Nat) (bs : List Byte) : (writeBytes s off bs).mem = storeCells s s.mem off bs := rfl
@[simp] theorem writeBytes_halted (off : Nat) (bs : List Byte) : (writeBytes s off bs).halted = s.halted := rfl
@[simp] theorem writeBytes_interrupt (off : Nat) (bs : List Byte) : (writeBytes s off bs).interrupt = s.interrupt := rfl
@[simp] theorem writeBytes_haltNotification (off : Nat) (bs : List Byte) : (writeBytes s off bs).haltNotification = s.haltNotification := rfl
@[simp] theorem writeBytes_nextAction (off : Nat) (bs : List Byte) : (writeBytes s off bs).nextAction = s.nextAction := rfl
@[simp] theorem writeBytes_actionExecuted (off : Nat) (bs : List Byte) : (writeBytes s off bs).actionExecuted = s.actionExecuted := rfl
@[simp] theorem writeBytes_unavailable (off : Nat) (bs : List Byte) : (writeBytes s off bs).unavailable = s.unavailable := rfl
@[simp] theorem writeBytes_harts (off : Nat) (bs : List Byte) : (writeBytes s off bs).harts = s.harts := rfl
@[simp] theorem writeBytes_stepping (off : Nat) (bs : List Byte) : (writeBytes s off bs).stepping = s.stepping := rfl
@[simp] theorem writeBytes_response (off : Nat) (bs : List Byte) : (writeBytes s off bs).response = s.response := rfl
@[simp] theorem writeBytes_pulses (off : Nat) (bs : List Byte) : (writeBytes s off bs).pulses = s.pulses := rfl
@[simp] theorem writeBytes_pending (off : Nat) (bs : List Byte) : (writeBytes s off bs).pending = s.pending := rfl
@[simp] theorem writeBytes_exchInit (off : Nat) (bs : List Byte) : (writeBytes s off bs).exchInit = s.exchInit := rfl
@[simp] theorem writeBytes_freeCount (off : Nat) (bs : List Byte) : (writeBytes s off bs).freeCount = s.freeCount := rfl

@[simp] theorem write32_params (off : Nat) (v : Word32) : (write32 s off v).params = s.params := rfl
@[simp] theorem write32_dmactive (off : Nat) (v : Word32) : (write32 s off v).dmactive = s.dmactive := rfl
@[simp] theorem write32_hartsel (off : Nat) (v : Word32) : (write32 s off v).hartsel = s.hartsel := rfl
@[simp] theorem write32_authenticated (off : Nat) (v : Word32) : (write32 s off v).authenticated = s.authenticated := rfl
@[simp] theorem write32_authbusy (off : Nat) (v : Word32) : (write32 s off v).authbusy = s.authbusy := rfl
@[simp] theorem write32_authtype (off : Nat) (v : Word32) : (write32 s off v).authtype = s.authtype := rfl
@[simp] theorem write32_version (off : Nat) (v : Word32) : (write32 s off v).version = s.version := rfl
@[simp] theorem write32_autoexec (off : Nat) (v : Word32) : (write32 s off v).autoexec = s.autoexec := rfl
@[simp] theorem write32_cmderr (off : Nat) (v : Word32) : (write32 s off v).cmderr = s.cmderr := rfl
@[simp] theorem write32_busy (off : Nat) (v : Word32) : (write32 s off v).busy = s.busy := rfl
@[simp] theorem write32_datacount (off : Nat) (v : Word32) : (write32 s off v).datacount = s.datacount := rfl
@[simp] theorem write32_lastCommand (off : Nat) (v : Word32) : (write32 s off v).lastCommand = s.lastCommand := rfl
@[simp] theorem write32_lastCommandValid (off : Nat) (v : Word32) : (write32 s off v).lastCommandValid = s.lastCommandValid := rfl
@[simp] theorem write32_mem (off : Nat) (v : Word32) : (write32 s off v).mem = storeCells s s.mem off (littleEndian 4 v) := rfl
@[simp] theorem write32_halted (off : Nat) (v : Word32) : (write32 s off v).halted = s.halted := rfl
@[simp] theorem write32_interrupt (off : Nat) (v : Word32) : (write32 s off v).interrupt = s.interrupt := rfl
@[simp] theorem write32_haltNotification (off : Nat) (v : Word32) : (write32 s off v).haltNotification = s.haltNotification := rfl
@[simp] theorem write32_nextAction (off : Nat) (v : Word32) : (write32 s off v).nextAction = s.nextAction := rfl
@[simp] theorem write32_actionExecuted (off : Nat) (v : Word32) : (write32 s off v).actionExecuted = s.actionExecuted := rfl
@[simp] theorem write32_unavailable (off : Nat) (v : Word32) : (write32 s off v).unavailable = s.unavailable := rfl
@[simp] theorem write32_harts (off : Nat) (v : Word32) : (write32 s off v).harts = s.harts := rfl
@[simp] theorem write32_stepping (off : Nat) (v : Word32) : (write32 s off v).stepping = s.stepping := rfl
@[simp] theorem write32_response (off : Nat) (v : Word32) : (write32 s off v).response = s.response := rfl
@[simp] theorem write32_pulses (off : Nat) (v : Word32) : (write32 s off v).pulses = s.pulses := rfl
@[simp] theorem write32_pending (off : Nat) (v : Word32) : (write32 s off v).pending = s.pending := rfl
@[simp] theorem write32_exchInit (off : Nat) (v : Word32) : (write32 s off v).exchInit = s.exchInit := rfl
@[simp] theorem write32_freeCount (off : Nat) (v : Word32) : (write32 s off v).freeCount = s.freeCount := rfl

@[simp] theorem writeEntry_params (ws : List Word32) : (writeEntry ws s).params = s.params := rfl
@[simp] theorem writeEntry_dmactive (ws : List Word32) : (writeEntry ws s).dmactive = s.dmactive := rfl
@[simp] theorem writeEntry_hartsel (ws : List Word32) : (writeEntry ws s).hartsel = s.hartsel := rfl
@[simp] theorem writeEntry_authenticated (ws : List Word32) : (writeEntry ws s).authenticated = s.authenticated := rfl
@[simp] theorem writeEntry_authbusy (ws : List Word32) : (writeEntry ws s).authbusy = s.authbusy := rfl
@[simp] theorem writeEntry_authtype (ws : List Word32) : (writeEntry ws s).authtype = s.authtype := rfl
@[simp] theorem writeEntry_version (ws : List Word32) : (writeEntry ws s).version = s.version := rfl
@[simp] theorem writeEntry_autoexec (ws : List Word32) : (writeEntry ws s).autoexec = s.autoexec := rfl
@[simp] theorem writeEntry_cmderr (ws : List Word32) : (writeEntry ws s).cmderr = s.cmderr := rfl
@[simp] theorem writeEntry_busy (ws : List Word32) : (writeEntry ws s).busy = s.busy := rfl
@[simp] theorem writeEntry_datacount (ws : List Word32) : (writeEntry ws s).datacount = s.datacount := rfl
@[simp] theorem writeEntry_lastCommand (ws : List Word32) : (writeEntry ws s).lastCommand = s.lastCommand := rfl
@[simp] theorem writeEntry_lastCommandValid (ws : List Word32) : (writeEntry ws s).lastCommandValid = s.lastCommandValid := rfl
@[simp] theorem writeEntry_mem (ws : List Word32) : (writeEntry ws s).mem = storeCells s s.mem 0 (ws.flatMap (littleEndian 4)) := rfl
@[simp] theorem writeEntry_halted (ws : List Word32) : (writeEntry ws s).halted = s.halted := rfl
@[simp] theorem writeEntry_interrupt (ws : List Word32) : (writeEntry ws s).interrupt = s.interrupt := rfl
@[simp] theorem writeEntry_haltNotification (ws : List Word32) : (writeEntry ws s).haltNotification = s.haltNotification := rfl
@[simp] theorem writeEntry_nextAction (ws : List Word32) : (writeEntry ws s).nextAction = s.nextAction := rfl
@[simp] theorem writeEntry_actionExecuted (ws : List Word32) : (writeEntry ws s).actionExecuted = s.actionExecuted := rfl
@[simp] theorem writeEntry_unavailable (ws : List Word32) : (writeEntry ws s).unavailable = s.unavailable := rfl
@[simp] theorem writeEntry_harts (ws : List Word32) : (writeEntry ws s).harts = s.harts := rfl
@[simp] theorem writeEntry_stepping (ws : List Word32) : (writeEntry ws s).stepping = s.stepping := rfl
@[simp] theorem writeEntry_response (ws : List Word32) : (writeEntry ws s).response = s.response := rfl
@[simp] theorem writeEntry_pulses (ws : List Word32) : (writeEntry ws s).pulses = s.pulses := rfl
@[simp] theorem writeEntry_pending (ws : List Word32) : (writeEntry ws s).pending = s.pending := rfl
@[simp] theorem writeEntry_exchInit (ws : List Word32) : (writeEntry ws s).exchInit = s.exchInit := rfl
@[simp] theorem writeEntry_freeCount (ws : List Word32) : (writeEntry ws s).freeCount = s.freeCount := rfl

@[simp] theorem restoreEntry_params : (restoreEntry s).params = s.params := rfl
@[simp] theorem restoreEntry_dmactive : (restoreEntry s).dmactive = s.dmactive := rfl
@[simp] theorem restoreEntry_hartsel : (restoreEntry s).hartsel = s.hartsel := rfl
@[simp] theorem restoreEntry_authenticated : (restoreEntry s).authenticated = s.authenticated := rfl
@[simp] theorem restoreEntry_authbusy : (restoreEntry s).authbusy = s.authbusy := rfl
@[simp] theorem restoreEntry_authtype : (restoreEntry s).authtype = s.authtype := rfl
@[simp] theorem restoreEntry_version : (restoreEntry s).version = s.version := rfl
@[simp] theorem restoreEntry_autoexec : (restoreEntry s).autoexec = s.autoexec := rfl
@[simp] theorem restoreEntry_cmderr : (restoreEntry s).cmderr = s.cmderr := rfl
@[simp] theorem restoreEntry_busy : (restoreEntry s).busy = s.busy := rfl
@[simp] theorem restoreEntry_datacount : (restoreEntry s).datacount = s.datacount := rfl
@[simp] theorem restoreEntry_lastCommand : (restoreEntry s).lastCommand = s.lastCommand := rfl
@[simp] theorem restoreEntry_lastCommandValid : (restoreEntry s).lastCommandValid = s.lastCommandValid := rfl
@[simp] theorem restoreEntry_mem : (restoreEntry s).mem = s.mem.filter (fun c => decide (0x10 ≤ c.1)) := rfl
@[simp] theorem restoreEntry_halted : (restoreEntry s).halted = s.halted := rfl
@[simp] theorem restoreEntry_interrupt : (restoreEntry s).interrupt = s.interrupt := rfl
@[simp] theorem restoreEntry_haltNotification : (restoreEntry s).haltNotification = s.haltNotification := rfl
@[simp] theorem restoreEntry_nextAction : (restoreEntry s).nextAction = s.nextAction := rfl
@[simp] theorem restoreEntry_actionExecuted : (restoreEntry s).actionExecuted = s.actionExecuted := rfl
@[simp] theorem restoreEntry_unavailable : (restoreEntry s).unavailable = s.unavailable := rfl
@[simp] theorem restoreEntry_harts : (restoreEntry s).harts = s.harts := rfl
@[simp] theorem restoreEntry_stepping : (restoreEntry s).stepping = s.stepping := rfl
@[simp] theorem restoreEntry_response : (restoreEntry s).response = s.response := rfl
@[simp] theorem restoreEntry_pulses : (restoreEntry s).pulses = s.pulses := rfl
@[simp] theorem restoreEntry_pending : (restoreEntry s).pending = s.pending := rfl
@[simp] theorem restoreEntry_exchInit : (restoreEntry s).exchInit = s.exchInit := rfl
@[simp] theorem restoreEntry_freeCount : (restoreEntry s).freeCount = s.freeCount := rfl

@[simp] theorem zeroProgbuf_params : (zeroProgbuf s).params = s.params := rfl
@[simp] theorem zeroProgbuf_dmactive : (zeroProgbuf s).dmactive = s.dmactive := rfl
@[simp] theorem zeroProgbuf_hartsel : (zeroProgbuf s).hartsel = s.hartsel := rfl
@[simp] theorem zeroProgbuf_authenticated : (zeroProgbuf s).authenticated = s.authenticated := rfl
@[simp] theorem zeroProgbuf_authbusy : (zeroProgbuf s).authbusy = s.authbusy := rfl
@[simp] theorem zeroProgbuf_authtype : (zeroProgbuf s).authtype = s.authtype := rfl
@[simp] theorem zeroProgbuf_version : (zeroProgbuf s).version = s.version := rfl
@[simp] theorem zeroProgbuf_autoexec : (zeroProgbuf s).autoexec = s.autoexec := rfl
@[simp] theorem zeroProgbuf_cmderr : (zeroProgbuf s).cmderr = s.cmderr := rfl
@[simp] theorem zeroProgbuf_busy : (zeroProgbuf s).busy = s.busy := rfl
@[simp] theorem zeroProgbuf_datacount : (zeroProgbuf s).datacount = s.datacount := rfl
@[simp] theorem zeroProgbuf_lastCommand : (zeroProgbuf s).lastCommand = s.lastCommand := rfl
@[simp] theorem zeroProgbuf_lastCommandValid : (zeroProgbuf s).lastCommandValid = s.lastCommandValid := rfl
@[simp] theorem zeroProgbuf_mem : (zeroProgbuf s).mem = s.mem.filter (fun c => !(decide (0x20 ≤ c.1) && decide (c.1 < 0x40))) := rfl
@[simp] theorem zeroProgbuf_halted : (zeroProgbuf s).halted = s.halted := rfl
@[simp] theorem zeroProgbuf_interrupt : (zeroProgbuf s).interrupt = s.interrupt := rfl
@[simp] theorem zeroProgbuf_haltNotification : (zeroProgbuf s).haltNotification = s.haltNotification := rfl
@[simp] theorem zeroProgbuf_nextAction : (zeroProgbuf s).nextAction = s.nextAction := rfl
@[simp] theorem zeroProgbuf_actionExecuted : (zeroProgbuf s).actionExecuted = s.actionExecuted := rfl
@[simp] theorem zeroProgbuf_unavailable : (zeroProgbuf s).unavailable = s.unavailable := rfl
@[simp] theorem zeroProgbuf_harts : (zeroProgbuf s).harts = s.harts := rfl
@[simp] theorem zeroProgbuf_stepping : (zeroProgbuf s).stepping = s.stepping := rfl
@[simp] theorem zeroProgbuf_response : (zeroProgbuf s).response = s.response := rfl
@[simp] theorem zeroProgbuf_pulses : (zeroProgbuf s).pulses = s.pulses := rfl
@[simp] theorem zeroProgbuf_pending : (zeroProgbuf s).pending = s.pending := rfl
@[simp] theorem zeroProgbuf_exchInit : (zeroProgbuf s).exchInit = s.exchInit := rfl
@[simp] theorem zeroProgbuf_freeCount : (zeroProgbuf s).freeCount = s.freeCount := rfl

@[simp] theorem sync_params : (sync s).params = s.params := rfl
@[simp] theorem sync_dmactive : (sync s).dmactive = s.dmactive := rfl
@[simp] theorem sync_hartsel : (sync s).hartsel = s.hartsel := rfl
@[simp] theorem sync_authenticated : (sync s).authenticated = s.authenticated := rfl
@[simp] theorem sync_authbusy : (sync s).authbusy = s.authbusy := rfl
@[simp] theorem sync_authtype : (sync s).authtype = s.authtype := rfl
@[simp] theorem sync_version : (sync s).version = s.version := rfl
@[simp] theorem sync_autoexec : (sync s).autoexec = s.autoexec := rfl
@[simp] theorem sync_cmderr : (sync s).cmderr = s.cmderr := rfl
@[simp] theorem sync_busy : (sync s).busy = s.busy := rfl
@[simp] theorem sync_datacount : (sync s).datacount = s.datacount := rfl
@[simp] theorem sync_lastCommand : (sync s).lastCommand = s.lastCommand := rfl
@[simp] theorem sync_lastCommandValid : (sync s).lastCommandValid = s.lastCommandValid := rfl
@[simp] theorem sync_mem : (sync s).mem = s.mem := rfl
@[simp] theorem sync_halted : (sync s).halted = s.haltNotification.foldl (foldHalted s) s.halted := rfl
@[simp] theorem sync_interrupt : (sync s).interrupt = s.haltNotification.foldl (foldInterrupt s) s.interrupt := rfl
@[simp] theorem sync_haltNotification : (sync s).haltNotification = [] := rfl
@[simp] theorem sync_nextAction : (sync s).nextAction = s.nextAction := rfl
@[simp] theorem sync_actionExecuted : (sync s).actionExecuted = s.actionExecuted := rfl
@[simp] theorem sync_unavailable : (sync s).unavailable = s.unavailable := rfl
@[simp] theorem sync_harts : (sync s).harts = s.harts := rfl
@[simp] theorem sync_stepping : (sync s).stepping = s.stepping := rfl
@[simp] theorem sync_response : (sync s).response = s.response := rfl
@[simp] theorem sync_pulses : (sync s).pulses = s.pulses := rfl
@[simp] theorem sync_pending : (sync s).pending = s.pending := rfl
@[simp] theorem sync_exchInit : (sync s).exchInit = s.exchInit := rfl
@[simp] theorem sync_freeCount : (sync s).freeCount = s.freeCount := rfl

@[simp] theorem moduleReset_params : (moduleReset s).params = s.params := rfl
@[simp] theorem moduleReset_dmactive : (moduleReset s).dmactive = false := rfl
@[simp] theorem moduleReset_hartsel : (moduleReset s).hartsel = 0#10 := rfl
@[simp] theorem moduleReset_authenticated : (moduleReset s).authenticated = s.authenticated := rfl
@[simp] theorem moduleReset_authbusy : (moduleReset s).authbusy = s.authbusy := rfl
@[simp] theorem moduleReset_authtype : (moduleReset s).authtype = s.authtype := rfl
@[simp] theorem moduleReset_version : (moduleReset s).version = s.version := rfl
@[simp] theorem moduleReset_autoexec : (moduleReset s).autoexec = 0#8 := rfl
@[simp] theorem moduleReset_cmderr : (moduleReset s).cmderr = CmdErr.none := rfl
@[simp] theorem moduleReset_busy : (moduleReset s).busy = false := rfl
@[simp] theorem moduleReset_datacount : (moduleReset s).datacount = s.datacount := rfl
@[simp] theorem moduleReset_lastCommand : (moduleReset s).lastCommand = 0#32 := rfl
@[simp] theorem moduleReset_lastCommandValid : (moduleReset s).lastCommandValid = false := rfl
@[simp] theorem moduleReset_mem : (moduleReset s).mem = (restoreEntry (zeroProgbuf s)).mem := rfl
@[simp] theorem moduleReset_halted : (moduleReset s).halted = 0#1024 := rfl
@[simp] theorem moduleReset_interrupt : (moduleReset s).interrupt = [] := rfl
@[simp] theorem moduleReset_haltNotification : (moduleReset s).haltNotification = [] := rfl
@[simp] theorem moduleReset_nextAction : (moduleReset s).nextAction = none := rfl
@[simp] theorem moduleReset_actionExecuted : (moduleReset s).actionExecuted = false := rfl
@[simp] theorem moduleReset_unavailable : (moduleReset s).unavailable = s.unavailable := rfl
@[simp] theorem moduleReset_harts : (moduleReset s).harts = s.harts := rfl
@[simp] theorem moduleReset_stepping : (moduleReset s).stepping = s.stepping := rfl
@[simp] theorem moduleReset_response : (moduleReset s).response = s.response := rfl
@[simp] theorem moduleReset_pulses : (moduleReset s).pulses = s.pulses := rfl
@[simp] theorem moduleReset_pending : (moduleReset s).pending = s.pending := rfl
@[simp] theorem moduleReset_exchInit : (moduleReset s).exchInit = s.exchInit := rfl
@[simp] theorem moduleReset_freeCount : (moduleReset s).freeCount = s.freeCount := rfl

@[simp] theorem drawExchange_params : (drawExchange s).params = s.params := rfl
@[simp] theorem drawExchange_dmactive : (drawExchange s).dmactive = s.dmactive := rfl
@[simp] theorem drawExchange_hartsel : (drawExchange s).hartsel = s.hartsel := rfl
@[simp] theorem drawExchange_authenticated : (drawExchange s).authenticated = s.authenticated := rfl
@[simp] theorem drawExchange_authbusy : (drawExchange s).authbusy = s.authbusy := rfl
@[simp] theorem drawExchange_authtype : (drawExchange s).authtype = s.authtype := rfl
@[simp] theorem drawExchange_version : (drawExchange s).version = s.version := rfl
@[simp] theorem drawExchange_autoexec : (drawExchange s).autoexec = s.autoexec := rfl
@[simp] theorem drawExchange_cmderr : (drawExchange s).cmderr = s.cmderr := rfl
@[simp] theorem drawExchange_busy : (drawExchange s).busy = s.busy := rfl
@[simp] theorem drawExchange_datacount : (drawExchange s).datacount = s.datacount := rfl
@[simp] theorem drawExchange_lastCommand : (drawExchange s).lastCommand = s.lastCommand := rfl
@[simp] theorem drawExchange_lastCommandValid : (drawExchange s).lastCommandValid = s.lastCommandValid := rfl
@[simp] theorem drawExchange_mem : (drawExchange s).mem = s.mem.filter (fun c => decide (c.1 < 0x80)) := rfl
@[simp] theorem drawExchange_halted : (drawExchange s).halted = s.halted := rfl
@[simp] theorem drawExchange_interrupt : (drawExchange s).interrupt = s.interrupt := rfl
@[simp] theorem drawExchange_haltNotification : (drawExchange s).haltNotification = s.haltNotification := rfl
@[simp] theorem drawExchange_nextAction : (drawExchange s).nextAction = s.nextAction := rfl
@[simp] theorem drawExchange_actionExecuted : (drawExchange s).actionExecuted = s.actionExecuted := rfl
@[simp] theorem drawExchange_unavailable : (drawExchange s).unavailable = s.unavailable := rfl
@[simp] theorem drawExchange_harts : (drawExchange s).harts = s.harts := rfl
@[simp] theorem drawExchange_stepping : (drawExchange s).stepping = s.stepping := rfl
@[simp] theorem drawExchange_response : (drawExchange s).response = s.response := rfl
@[simp] theorem drawExchange_pulses : (drawExchange s).pulses = s.pulses := rfl
@[simp] theorem drawExchange_pending : (drawExchange s).pending = s.pending := rfl
@[simp] theorem drawExchange_exchInit : (drawExchange s).exchInit = Config.exchInit s.freeCount := rfl
@[simp] theorem drawExchange_freeCount : (drawExchange s).freeCount = s.freeCount + 1 := rfl

@[simp] theorem recordCommand_params (c : Word32) : (recordCommand c s).params = s.params := rfl
@[simp] theorem recordCommand_dmactive (c : Word32) : (recordCommand c s).dmactive = s.dmactive := rfl
@[simp] theorem recordCommand_hartsel (c : Word32) : (recordCommand c s).hartsel = s.hartsel := rfl
@[simp] theorem recordCommand_authenticated (c : Word32) : (recordCommand c s).authenticated = s.authenticated := rfl
@[simp] theorem recordCommand_authbusy (c : Word32) : (recordCommand c s).authbusy = s.authbusy := rfl
@[simp] theorem recordCommand_authtype (c : Word32) : (recordCommand c s).authtype = s.authtype := rfl
@[simp] theorem recordCommand_version (c : Word32) : (recordCommand c s).version = s.version := rfl
@[simp] theorem recordCommand_autoexec (c : Word32) : (recordCommand c s).autoexec = s.autoexec := rfl
@[simp] theorem recordCommand_cmderr (c : Word32) : (recordCommand c s).cmderr = s.cmderr := rfl
@[simp] theorem recordCommand_busy (c : Word32) : (recordCommand c s).busy = s.busy := rfl
@[simp] theorem recordCommand_datacount (c : Word32) : (recordCommand c s).datacount = s.datacount := rfl
@[simp] theorem recordCommand_lastCommand (c : Word32) : (recordCommand c s).lastCommand = c := rfl
@[simp] theorem recordCommand_lastCommandValid (c : Word32) : (recordCommand c s).lastCommandValid = true := rfl
@[simp] theorem recordCommand_mem (c : Word32) : (recordCommand c s).mem = s.mem := rfl
@[simp] theorem recordCommand_halted (c : Word32) : (recordCommand c s).halted = s.halted := rfl
@[simp] theorem recordCommand_interrupt (c : Word32) : (recordCommand c s).interrupt = s.interrupt := rfl
@[simp] theorem recordCommand_haltNotification (c : Word32) : (recordCommand c s).haltNotification = s.haltNotification := rfl
@[simp] theorem recordCommand_nextAction (c : Word32) : (recordCommand c s).nextAction = s.nextAction := rfl
@[simp] theorem recordCommand_actionExecuted (c : Word32) : (recordCommand c s).actionExecuted = s.actionExecuted := rfl
@[simp] theorem recordCommand_unavailable (c : Word32) : (recordCommand c s).unavailable = s.unavailable := rfl
@[simp] theorem recordCommand_harts (c : Word32) : (recordCommand c s).harts = s.harts := rfl
@[simp] theorem recordCommand_stepping (c : Word32) : (recordCommand c s).stepping = s.stepping := rfl
@[simp] theorem recordCommand_response (c : Word32) : (recordCommand c s).response = s.response := rfl
@[simp] theorem recordCommand_pulses (c : Word32) : (recordCommand c s).pulses = s.pulses := rfl
@[simp] theorem recordCommand_pending (c : Word32) : (recordCommand c s).pending = s.pending := rfl
@[simp] theorem recordCommand_exchInit (c : Word32) : (recordCommand c s).exchInit = s.exchInit := rfl
@[simp] theorem recordCommand_freeCount (c : Word32) : (recordCommand c s).freeCount = s.freeCount := rfl

@[simp] theorem selectHart_params (v : Word32) : (selectHart v s).params = s.params := rfl
@[simp] theorem selectHart_dmactive (v : Word32) : (selectHart v s).dmactive = true := rfl
@[simp] theorem selectHart_hartsel (v : Word32) : (selectHart v s).hartsel = hartselField v := rfl
@[simp] theorem selectHart_authenticated (v : Word32) : (selectHart v s).authenticated = s.authenticated := rfl
@[simp] theorem selectHart_authbusy (v : Word32) : (selectHart v s).authbusy = s.authbusy := rfl
@[simp] theorem selectHart_authtype (v : Word32) : (selectHart v s).authtype = s.authtype := rfl
@[simp] theorem selectHart_version (v : Word32) : (selectHart v s).version = s.version := rfl
@[simp] theorem selectHart_autoexec (v : Word32) : (selectHart v s).autoexec = s.autoexec := rfl
@[simp] theorem selectHart_cmderr (v : Word32) : (selectHart v s).cmderr = s.cmderr := rfl
@[simp] theorem selectHart_busy (v : Word32) : (selectHart v s).busy = s.busy := rfl
@[simp] theorem selectHart_datacount (v : Word32) : (selectHart v s).datacount = s.datacount := rfl
@[simp] theorem selectHart_lastCommand (v : Word32) : (selectHart v s).lastCommand = s.lastCommand := rfl
@[simp] theorem selectHart_lastCommandValid (v : Word32) : (selectHart v s).lastCommandValid = s.lastCommandValid := rfl
@[simp] theorem selectHart_mem (v : Word32) : (selectHart v s).mem = s.mem := rfl
@[simp] theorem selectHart_halted (v : Word32) : (selectHart v s).halted = s.halted := rfl
@[simp] theorem selectHart_interrupt (v : Word32) : (selectHart v s).interrupt = s.interrupt := rfl
@[simp] theorem selectHart_haltNotification (v : Word32) : (selectHart v s).haltNotification = s.haltNotification := rfl
@[simp] theorem selectHart_nextAction (v : Word32) : (selectHart v s).nextAction = s.nextAction := rfl
@[simp] theorem selectHart_actionExecuted (v : Word32) : (selectHart v s).actionExecuted = s.actionExecuted := rfl
@[simp] theorem selectHart_unavailable (v : Word32) : (selectHart v s).unavailable = s.unavailable := rfl
@[simp] theorem selectHart_harts (v : Word32) : (selectHart v s).harts = s.harts := rfl
@[simp] theorem selectHart_stepping (v : Word32) : (selectHart v s).stepping = s.stepping := rfl
@[simp] theorem selectHart_response (v : Word32) : (selectHart v s).response = s.response := rfl
@[simp] theorem selectHart_pulses (v : Word32) : (selectHart v s).pulses = s.pulses := rfl
@[simp] theorem selectHart_pending (v : Word32) : (selectHart v s).pending = s.pending := rfl
@[simp] theorem selectHart_exchInit (v : Word32) : (selectHart v s).exchInit = s.exchInit := rfl
@[simp] theorem selectHart_freeCount (v : Word32) : (selectHart v s).freeCount = s.freeCount := rfl

@[simp] theorem setContext_params (h : Nat) (c : HartContext) : (setContext h c s).params = s.params := rfl
@[simp] theorem setContext_dmactive (h : Nat) (c : HartContext) : (setContext h c s).dmactive = s.dmactive := rfl
@[simp] theorem setContext_hartsel (h : Nat) (c : HartContext) : (setContext h c s).hartsel = s.hartsel := rfl
@[simp] theorem setContext_authenticated (h : Nat) (c : HartContext) : (setContext h c s).authenticated = s.authenticated := rfl
@[simp] theorem setContext_authbusy (h : Nat) (c : HartContext) : (setContext h c s).authbusy = s.authbusy := rfl
@[simp] theorem setContext_authtype (h : Nat) (c : HartContext) : (setContext h c s).authtype = s.authtype := rfl
@[simp] theorem setContext_version (h : Nat) (c : HartContext) : (setContext h c s).version = s.version := rfl
@[simp] theorem setContext_autoexec (h : Nat) (c : HartContext) : (setContext h c s).autoexec = s.autoexec := rfl
@[simp] theorem setContext_cmderr (h : Nat) (c : HartContext) : (setContext h c s).cmderr = s.cmderr := rfl
@[simp] theorem setContext_busy (h : Nat) (c : HartContext) : (setContext h c s).busy = s.busy := rfl
@[simp] theorem setContext_datacount (h : Nat) (c : HartContext) : (setContext h c s).datacount = s.datacount := rfl
@[simp] theorem setContext_lastCommand (h : Nat) (c : HartContext) : (setContext h c s).lastCommand = s.lastCommand := rfl
@[simp] theorem setContext_lastCommandValid (h : Nat) (c : HartContext) : (setContext h c s).lastCommandValid = s.lastCommandValid := rfl
@[simp] theorem setContext_mem (h : Nat) (c : HartContext) : (setContext h c s).mem = s.mem := rfl
@[simp] theorem setContext_halted (h : Nat) (c : HartContext) : (setContext h c s).halted = s.halted := rfl
@[simp] theorem setContext_interrupt (h : Nat) (c : HartContext) : (setContext h c s).interrupt = s.interrupt := rfl
@[simp] theorem setContext_haltNotification (h : Nat) (c : HartContext) : (setContext h c s).haltNotification = s.haltNotification := rfl
@[simp] theorem setContext_nextAction (h : Nat) (c : HartContext) : (setContext h c s).nextAction = s.nextAction := rfl
@[simp] theorem setContext_actionExecuted (h : Nat) (c : HartContext) : (setContext h c s).actionExecuted = s.actionExecuted := rfl
@[simp] theorem setContext_unavailable (h : Nat) (c : HartContext) : (setContext h c s).unavailable = s.unavailable := rfl
@[simp] theorem setContext_harts (h : Nat) (c : HartContext) : (setContext h c s).harts = putKey s.harts h c := rfl
@[simp] theorem setContext_stepping (h : Nat) (c : HartContext) : (setContext h c s).stepping = s.stepping := rfl
@[simp] theorem setContext_response (h : Nat) (c : HartContext) : (setContext h c s).response = s.response := rfl
@[simp] theorem setContext_pulses (h : Nat) (c : HartContext) : (setContext h c s).pulses = s.pulses := rfl
@[simp] theorem setContext_pending (h : Nat) (c : HartContext) : (setContext h c s).pending = s.pending := rfl
@[simp] theorem setContext_exchInit (h : Nat) (c : HartContext) : (setContext h c s).exchInit = s.exchInit := rfl
@[simp] theorem setContext_freeCount (h : Nat) (c : HartContext) : (setContext h c s).freeCount = s.freeCount := rfl

@[simp] theorem setPc_params (h : Nat) (a : XWord) : (setPc h a s).params = s.params := rfl
@[simp] theorem setPc_dmactive (h : Nat) (a : XWord) : (setPc h a s).dmactive = s.dmactive := rfl
@[simp] theorem setPc_hartsel (h : Nat) (a : XWord) : (setPc h a s).hartsel = s.hartsel := rfl
@[simp] theorem setPc_authenticated (h : Nat) (a : XWord) : (setPc h a s).authenticated = s.authenticated := rfl
@[simp] theorem setPc_authbusy (h : Nat) (a : XWord) : (setPc h a s).authbusy = s.authbusy := rfl
@[simp] theorem setPc_authtype (h : Nat) (a : XWord) : (setPc h a s).authtype = s.authtype := rfl
@[simp] theorem setPc_version (h : Nat) (a : XWord) : (setPc h a s).version = s.version := rfl
@[simp] theorem setPc_autoexec (h : Nat) (a : XWord) : (setPc h a s).autoexec = s.autoexec := rfl
@[simp] theorem setPc_cmderr (h : Nat) (a : XWord) : (setPc h a s).cmderr = s.cmderr := rfl
@[simp] theorem setPc_busy (h : Nat) (a : XWord) : (setPc h a s).busy = s.busy := rfl
@[simp] theorem setPc_datacount (h : Nat) (a : XWord) : (setPc h a s).datacount = s.datacount := rfl
@[simp] theorem setPc_lastCommand (h : Nat) (a : XWord) : (setPc h a s).lastCommand = s.lastCommand := rfl
@[simp] theorem setPc_lastCommandValid (h : Nat) (a : XWord) : (setPc h a s).lastCommandValid = s.lastCommandValid := rfl
@[simp] theorem setPc_mem (h : Nat) (a : XWord) : (setPc h a s).mem = s.mem := rfl
@[simp] theorem setPc_halted (h : Nat) (a : XWord) : (setPc h a s).halted = s.halted := rfl
@[simp] theorem setPc_interrupt (h : Nat) (a : XWord) : (setPc h a s).interrupt = s.interrupt := rfl
@[simp] theorem setPc_haltNotification (h : Nat) (a : XWord) : (setPc h a s).haltNotification = s.haltNotification := rfl
@[simp] theorem setPc_nextAction (h : Nat) (a : XWord) : (setPc h a s).nextAction = s.nextAction := rfl
@[simp] theorem setPc_actionExecuted (h : Nat) (a : XWord) : (setPc h a s).actionExecuted = s.actionExecuted := rfl
@[simp] theorem setPc_unavailable (h : Nat) (a : XWord) : (setPc h a s).unavailable = s.unavailable := rfl
@[simp] theorem setPc_harts (h : Nat) (a : XWord) : (setPc h a s).harts = putKey s.harts h { hartContext s h with pc := clipXlen s.params a } := rfl
@[simp] theorem setPc_stepping (h : Nat) (a : XWord) : (setPc h a s).stepping = s.stepping := rfl
@[simp] theorem setPc_response (h : Nat) (a : XWord) : (setPc h a s).response = s.response := rfl
@[simp] theorem setPc_pulses (h : Nat) (a : XWord) : (setPc h a s).pulses = s.pulses := rfl
@[simp] theorem setPc_pending (h : Nat) (a : XWord) : (setPc h a s).pending = s.pending := rfl
@[simp] theorem setPc_exchInit (h : Nat) (a : XWord) : (setPc h a s).exchInit = s.exchInit := rfl
@[simp] theorem setPc_freeCount (h : Nat) (a : XWord) : (setPc h a s).freeCount = s.freeCount := rfl

@[simp] theorem advancePc_params (h : Nat) : (advancePc h s).params = s.params := rfl
@[simp] theorem advancePc_dmactive (h : Nat) : (advancePc h s).dmactive = s.dmactive := rfl
@[simp] theorem advancePc_hartsel (h : Nat) : (advancePc h s).hartsel = s.hartsel := rfl
@[simp] theorem advancePc_authenticated (h : Nat) : (advancePc h s).authenticated = s.authenticated := rfl
@[simp] theorem advancePc_authbusy (h : Nat) : (advancePc h s).authbusy = s.authbusy := rfl
@[simp] theorem advancePc_authtype (h : Nat) : (advancePc h s).authtype = s.authtype := rfl
@[simp] theorem advancePc_version (h : Nat) : (advancePc h s).version = s.version := rfl
@[simp] theorem advancePc_autoexec (h : Nat) : (advancePc h s).autoexec = s.autoexec := rfl
@[simp] theorem advancePc_cmderr (h : Nat) : (advancePc h s).cmderr = s.cmderr := rfl
@[simp] theorem advancePc_busy (h : Nat) : (advancePc h s).busy = s.busy := rfl
@[simp] theorem advancePc_datacount (h : Nat) : (advancePc h s).datacount = s.datacount := rfl
@[simp] theorem advancePc_lastCommand (h : Nat) : (advancePc h s).lastCommand = s.lastCommand := rfl
@[simp] theorem advancePc_lastCommandValid (h : Nat) : (advancePc h s).lastCommandValid = s.lastCommandValid := rfl
@[simp] theorem advancePc_mem (h : Nat) : (advancePc h s).mem = s.mem := rfl
@[simp] theorem advancePc_halted (h : Nat) : (advancePc h s).halted = s.halted := rfl
@[simp] theorem advancePc_interrupt (h : Nat) : (advancePc h s).interrupt = s.interrupt := rfl
@[simp] theorem advancePc_haltNotification (h : Nat) : (advancePc h s).haltNotification = s.haltNotification := rfl
@[simp] theorem advancePc_nextAction (h : Nat) : (advancePc h s).nextAction = s.nextAction := rfl
@[simp] theorem advancePc_actionExecuted (h : Nat) : (advancePc h s).actionExecuted = s.actionExecuted := rfl
@[simp] theorem advancePc_unavailable (h : Nat) : (advancePc h s).unavailable = s.unavailable := rfl
@[simp] theorem advancePc_harts (h : Nat) : (advancePc h s).harts = (setPc h (readPc s h + 4) s).harts := rfl
@[simp] theorem advancePc_stepping (h : Nat) : (advancePc h s).stepping = s.stepping := rfl
@[simp] theorem advancePc_response (h : Nat) : (advancePc h s).response = s.response := rfl
@[simp] theorem advancePc_pulses (h : Nat) : (advancePc h s).pulses = s.pulses := rfl
@[simp] theorem advancePc_pending (h : Nat) : (advancePc h s).pending = s.pending := rfl
@[simp] theorem advancePc_exchInit (h : Nat) : (advancePc h s).exchInit = s.exchInit := rfl
@[simp] theorem advancePc_freeCount (h : Nat) : (advancePc h s).freeCount = s.freeCount := rfl

@[simp] theorem losePc_params (h : Nat) : (losePc h s).params = s.params := rfl
@[simp] theorem losePc_dmactive (h : Nat) : (losePc h s).dmactive = s.dmactive := rfl
@[simp] theorem losePc_hartsel (h : Nat) : (losePc h s).hartsel = s.hartsel := rfl
@[simp] theorem losePc_authenticated (h : Nat) : (losePc h s).authenticated = s.authenticated := rfl
@[simp] theorem losePc_authbusy (h : Nat) : (losePc h s).authbusy = s.authbusy := rfl
@[simp] theorem losePc_authtype (h : Nat) : (losePc h s).authtype = s.authtype := rfl
@[simp] theorem losePc_version (h : Nat) : (losePc h s).version = s.version := rfl
@[simp] theorem losePc_autoexec (h : Nat) : (losePc h s).autoexec = s.autoexec := rfl
@[simp] theorem losePc_cmderr (h : Nat) : (losePc h s).cmderr = s.cmderr := rfl
@[simp] theorem losePc_busy (h : Nat) : (losePc h s).busy = s.busy := rfl
@[simp] theorem losePc_datacount (h : Nat) : (losePc h s).datacount = s.datacount := rfl
@[simp] theorem losePc_lastCommand (h : Nat) : (losePc h s).lastCommand = s.lastCommand := rfl
@[simp] theorem losePc_lastCommandValid (h : Nat) : (losePc h s).lastCommandValid = s.lastCommandValid := rfl
@[simp] theorem losePc_mem (h : Nat) : (losePc h s).mem = s.mem := rfl
@[simp] theorem losePc_halted (h : Nat) : (losePc h s).halted = s.halted := rfl
@[simp] theorem losePc_interrupt (h : Nat) : (losePc h s).interrupt = s.interrupt := rfl
@[simp] theorem losePc_haltNotification (h : Nat) : (losePc h s).haltNotification = s.haltNotification := rfl
@[simp] theorem losePc_nextAction (h : Nat) : (losePc h s).nextAction = s.nextAction := rfl
@[simp] theorem losePc_actionExecuted (h : Nat) : (losePc h s).actionExecuted = s.actionExecuted := rfl
@[simp] theorem losePc_unavailable (h : Nat) : (losePc h s).unavailable = s.unavailable := rfl
@[simp] theorem losePc_harts (h : Nat) : (losePc h s).harts = (setPc h (Config.trapPc s.freeCount) s).harts := rfl
@[simp] theorem losePc_stepping (h : Nat) : (losePc h s).stepping = s.stepping := rfl
@[simp] theorem losePc_response (h : Nat) : (losePc h s).response = s.response := rfl
@[simp] theorem losePc_pulses (h : Nat) : (losePc h s).pulses = s.pulses := rfl
@[simp] theorem losePc_pending (h : Nat) : (losePc h s).pending = s.pending := rfl
@[simp] theorem losePc_exchInit (h : Nat) : (losePc h s).exchInit = s.exchInit := rfl
@[simp] theorem losePc_freeCount (h : Nat) : (losePc h s).freeCount = s.freeCount + 1 := rfl

@[simp] theorem returnToRom_params (h : Nat) : (returnToRom h s).params = s.params := rfl
@[simp] theorem returnToRom_dmactive (h : Nat) : (returnToRom h s).dmactive = s.dmactive := rfl
@[simp] theorem returnToRom_hartsel (h : Nat) : (returnToRom h s).hartsel = s.hartsel := rfl
@[simp] theorem returnToRom_authenticated (h : Nat) : (returnToRom h s).authenticated = s.authenticated := rfl
@[simp] theorem returnToRom_authbusy (h : Nat) : (returnToRom h s).authbusy = s.authbusy := rfl
@[simp] theorem returnToRom_authtype (h : Nat) : (returnToRom h s).authtype = s.authtype := rfl
@[simp] theorem returnToRom_version (h : Nat) : (returnToRom h s).version = s.version := rfl
@[simp] theorem returnToRom_autoexec (h : Nat) : (returnToRom h s).autoexec = s.autoexec := rfl
@[simp] theorem returnToRom_cmderr (h : Nat) : (returnToRom h s).cmderr = s.cmderr := rfl
@[simp] theorem returnToRom_busy (h : Nat) : (returnToRom h s).busy = s.busy := rfl
@[simp] theorem returnToRom_datacount (h : Nat) : (returnToRom h s).datacount = s.datacount := rfl
@[simp] theorem returnToRom_lastCommand (h : Nat) : (returnToRom h s).lastCommand = s.lastCommand := rfl
@[simp] theorem returnToRom_lastCommandValid (h : Nat) : (returnToRom h s).lastCommandValid = s.lastCommandValid := rfl
@[simp] theorem returnToRom_mem (h : Nat) : (returnToRom h s).mem = s.mem := rfl
@[simp] theorem returnToRom_halted (h : Nat) : (returnToRom h s).halted = s.halted := rfl
@[simp] theorem returnToRom_interrupt (h : Nat) : (returnToRom h s).interrupt = s.interrupt := rfl
@[simp] theorem returnToRom_haltNotification (h : Nat) : (returnToRom h s).haltNotification = s.haltNotification := rfl
@[simp] theorem returnToRom_nextAction (h : Nat) : (returnToRom h s).nextAction = s.nextAction := rfl
@[simp] theorem returnToRom_actionExecuted (h : Nat) : (returnToRom h s).actionExecuted = s.actionExecuted := rfl
@[simp] theorem returnToRom_unavailable (h : Nat) : (returnToRom h s).unavailable = s.unavailable := rfl
@[simp] theorem returnToRom_harts (h : Nat) : (returnToRom h s).harts = (setPc h (BitVec.ofNat 64 (romAddress s.params (Config.romReturn s.freeCount))) s).harts := rfl
@[simp] theorem returnToRom_stepping (h : Nat) : (returnToRom h s).stepping = s.stepping := rfl
@[simp] theorem returnToRom_response (h : Nat) : (returnToRom h s).response = s.response := rfl
@[simp] theorem returnToRom_pulses (h : Nat) : (returnToRom h s).pulses = s.pulses := rfl
@[simp] theorem returnToRom_pending (h : Nat) : (returnToRom h s).pending = s.pending := rfl
@[simp] theorem returnToRom_exchInit (h : Nat) : (returnToRom h s).exchInit = s.exchInit := rfl
@[simp] theorem returnToRom_freeCount (h : Nat) : (returnToRom h s).freeCount = s.freeCount + 1 := rfl

@[simp] theorem release_params (h : Nat) : (release h s).params = s.params := rfl
@[simp] theorem release_dmactive (h : Nat) : (release h s).dmactive = s.dmactive := rfl
@[simp] theorem release_hartsel (h : Nat) : (release h s).hartsel = s.hartsel := rfl
@[simp] theorem release_authenticated (h : Nat) : (release h s).authenticated = s.authenticated := rfl
@[simp] theorem release_authbusy (h : Nat) : (release h s).authbusy = s.authbusy := rfl
@[simp] theorem release_authtype (h : Nat) : (release h s).authtype = s.authtype := rfl
@[simp] theorem release_version (h : Nat) : (release h s).version = s.version := rfl
@[simp] theorem release_autoexec (h : Nat) : (release h s).autoexec = s.autoexec := rfl
@[simp] theorem release_cmderr (h : Nat) : (release h s).cmderr = s.cmderr := rfl
@[simp] theorem release_busy (h : Nat) : (release h s).busy = s.busy := rfl
@[simp] theorem release_datacount (h : Nat) : (release h s).datacount = s.datacount := rfl
@[simp] theorem release_lastCommand (h : Nat) : (release h s).lastCommand = s.lastCommand := rfl
@[simp] theorem release_lastCommandValid (h : Nat) : (release h s).lastCommandValid = s.lastCommandValid := rfl
@[simp] theorem release_mem (h : Nat) : (release h s).mem = s.mem := rfl
@[simp] theorem release_halted (h : Nat) : (release h s).halted = s.halted := rfl
@[simp] theorem release_interrupt (h : Nat) : (release h s).interrupt = s.interrupt := rfl
@[simp] theorem release_haltNotification (h : Nat) : (release h s).haltNotification = s.haltNotification := rfl
@[simp] theorem release_nextAction (h : Nat) : (release h s).nextAction = s.nextAction := rfl
@[simp] theorem release_actionExecuted (h : Nat) : (release h s).actionExecuted = s.actionExecuted := rfl
@[simp] theorem release_unavailable (h : Nat) : (release h s).unavailable = s.unavailable := rfl
@[simp] theorem release_harts (h : Nat) : (release h s).harts = (setPc h (BitVec.ofNat 64 (entryAbs s.params)) s).harts := rfl
@[simp] theorem release_stepping (h : Nat) : (release h s).stepping = s.stepping := rfl
@[simp] theorem release_response (h : Nat) : (release h s).response = s.response := rfl
@[simp] theorem release_pulses (h : Nat) : (release h s).pulses = s.pulses ++ [.release h] := rfl
@[simp] theorem release_pending (h : Nat) : (release h s).pending = s.pending := rfl
@[simp] theorem release_exchInit (h : Nat) : (release h s).exchInit = s.exchInit := rfl
@[simp] theorem release_freeCount (h : Nat) : (release h s).freeCount = s.freeCount := rfl

@[simp] theorem stage_params (ws : List Word32) (c : Word32) (h : Nat) : (stage ws c h s).params = s.params := rfl
@[simp] theorem stage_dmactive (ws : List Word32) (c : Word32) (h : Nat) : (stage ws c h s).dmactive = s.dmactive := rfl
@[simp] theorem stage_hartsel (ws : List Word32) (c : Word32) (h : Nat) : (stage ws c h s).hartsel = s.hartsel := rfl
@[simp] theorem stage_authenticated (ws : List Word32) (c : Word32) (h : Nat) : (stage ws c h s).authenticated = s.authenticated := rfl
@[simp] theorem stage_authbusy (ws : List Word32) (c : Word32) (h : Nat) : (stage ws c h s).authbusy = s.authbusy := rfl
@[simp] theorem stage_authtype (ws : List Word32) (c : Word32) (h : Nat) : (stage ws c h s).authtype = s.authtype := rfl
@[simp] theorem stage_version (ws : List Word32) (c : Word32) (h : Nat) : (stage ws c h s).version = s.version := rfl
@[simp] theorem stage_autoexec (ws : List Word32) (c : Word32) (h : Nat) : (stage ws c h s).autoexec = s.autoexec := rfl
@[simp] theorem stage_cmderr (ws : List Word32) (c : Word32) (h : Nat) : (stage ws c h s).cmderr = s.cmderr := rfl
@[simp] theorem stage_busy (ws : List Word32) (c : Word32) (h : Nat) : (stage ws c h s).busy = true := rfl
@[simp] theorem stage_datacount (ws : List Word32) (c : Word32) (h : Nat) : (stage ws c h s).datacount = s.datacount := rfl
@[simp] theorem stage_lastCommand (ws : List Word32) (c : Word32) (h : Nat) : (stage ws c h s).lastCommand = s.lastCommand := rfl
@[simp] theorem stage_lastCommandValid (ws : List Word32) (c : Word32) (h : Nat) : (stage ws c h s).lastCommandValid = s.lastCommandValid := rfl
@[simp] theorem stage_mem (ws : List Word32) (c : Word32) (h : Nat) : (stage ws c h s).mem = (writeEntry ws s).mem := rfl
@[simp] theorem stage_halted (ws : List Word32) (c : Word32) (h : Nat) : (stage ws c h s).halted = s.halted := rfl
@[simp] theorem stage_interrupt (ws : List Word32) (c : Word32) (h : Nat) : (stage ws c h s).interrupt = s.interrupt := rfl
@[simp] theorem stage_haltNotification (ws : List Word32) (c : Word32) (h : Nat) : (stage ws c h s).haltNotification = s.haltNotification := rfl
@[simp] theorem stage_nextAction (ws : List Word32) (c : Word32) (h : Nat) : (stage ws c h s).nextAction = some { words := ws, hart := h, command := c } := rfl
@[simp] theorem stage_actionExecuted (ws : List Word32) (c : Word32) (h : Nat) : (stage ws c h s).actionExecuted = false := rfl
@[simp] theorem stage_unavailable (ws : List Word32) (c : Word32) (h : Nat) : (stage ws c h s).unavailable = s.unavailable := rfl
@[simp] theorem stage_harts (ws : List Word32) (c : Word32) (h : Nat) : (stage ws c h s).harts = (setPc h (BitVec.ofNat 64 (entryAbs s.params)) s).harts := rfl
@[simp] theorem stage_stepping (ws : List Word32) (c : Word32) (h : Nat) : (stage ws c h s).stepping = s.stepping := rfl
@[simp] theorem stage_response (ws : List Word32) (c : Word32) (h : Nat) : (stage ws c h s).response = s.response := rfl
@[simp] theorem stage_pulses (ws : List Word32) (c : Word32) (h : Nat) : (stage ws c h s).pulses = s.pulses ++ [.release h] := rfl
@[simp] theorem stage_pending (ws : List Word32) (c : Word32) (h : Nat) : (stage ws c h s).pending = s.pending := rfl
@[simp] theorem stage_exchInit (ws : List Word32) (c : Word32) (h : Nat) : (stage ws c h s).exchInit = s.exchInit := rfl
@[simp] theorem stage_freeCount (ws : List Word32) (c : Word32) (h : Nat) : (stage ws c h s).freeCount = s.freeCount := rfl

end Sys2Proof.Machine
end

