-- ==== Sys2Proof/Laws/Memory.lean ====
section
/-! SUPPORT. The laws of byte storage: a read after a write, what a write leaves alone, and that every memory operation
keeps the canonical form (log 15). -/

namespace Sys2Proof.Machine

/-! ## Lists of pairs -/

theorem lookupKey_putKey {α : Type} (l : List (Nat × α)) (k j : Nat) (v : α) :
    lookupKey (putKey l k v) j = if j = k then some v else lookupKey l j := by
  induction l with
  | nil => by_cases h : k = j <;> simp [putKey, lookupKey, h, eq_comm]
  | cons c rest ih =>
    obtain ⟨i, w⟩ := c
    by_cases h1 : k < i
    · by_cases h : j = k
      · subst h; simp [putKey, lookupKey, h1]
      · simp [putKey, lookupKey, h1, h, Ne.symm h]
    · by_cases h2 : k = i
      · subst h2
        by_cases h : k = j
        · simp [putKey, lookupKey, h]
        · simp [putKey, lookupKey, h, Ne.symm h]
      · simp only [putKey, h1, h2, if_false, lookupKey, ih]
        by_cases h : i = j
        · subst h; simp [Ne.symm h2]
        · simp [h]

theorem lookupKey_filter {α : Type} (l : List (Nat × α)) (p : Nat → Bool) (j : Nat) :
    lookupKey (l.filter (fun c => p c.1)) j = if p j then lookupKey l j else none := by
  induction l with
  | nil => simp [lookupKey]
  | cons c rest ih =>
    obtain ⟨i, w⟩ := c
    by_cases hp : p i = true
    · by_cases h : i = j
      · subst h; simp [hp, lookupKey]
      · simp [hp, lookupKey, h, ih]
    · by_cases h : i = j
      · subst h; simp [hp, ih]
      · simp [hp, lookupKey, h, ih]

theorem lookupKey_dropKey {α : Type} (l : List (Nat × α)) (k j : Nat) :
    lookupKey (dropKey l k) j = if j = k then none else lookupKey l j := by
  have := lookupKey_filter l (fun i => !decide (i = k)) j
  by_cases h : j = k <;> simp_all [dropKey]

theorem keysRise_cons {α : Type} (j : Nat) (w : α) (l : List (Nat × α)) :
    keysRise ((j, w) :: l) = true ↔ (∀ c ∈ l, j < c.1) ∧ keysRise l = true := by
  simp [keysRise]

theorem keysRise_filter {α : Type} (l : List (Nat × α)) (p : Nat × α → Bool) (h : keysRise l = true) :
    keysRise (l.filter p) = true := by
  induction l with
  | nil => rfl
  | cons c rest ih =>
    obtain ⟨j, w⟩ := c
    obtain ⟨h1, h2⟩ := (keysRise_cons j w rest).1 h
    by_cases hp : p (j, w) = true
    · rw [List.filter_cons_of_pos hp, keysRise_cons]
      exact ⟨fun c hc => h1 c (List.mem_of_mem_filter hc), ih h2⟩
    · rw [List.filter_cons_of_neg hp]; exact ih h2

theorem mem_putKey {α : Type} (l : List (Nat × α)) (k : Nat) (v : α) (c : Nat × α) (h : c ∈ putKey l k v) :
    c = (k, v) ∨ c ∈ l := by
  induction l with
  | nil => simpa [putKey] using h
  | cons d rest ih =>
    obtain ⟨j, w⟩ := d
    simp only [putKey] at h
    split at h
    · simp only [List.mem_cons] at h ⊢; tauto
    · split at h
      · simp only [List.mem_cons] at h ⊢; tauto
      · rcases List.mem_cons.1 h with h | h
        · exact .inr (List.mem_cons.2 (.inl h))
        · exact (ih h).imp_right (fun h => List.mem_cons.2 (.inr h))

theorem keysRise_putKey {α : Type} (l : List (Nat × α)) (k : Nat) (v : α) (h : keysRise l = true) :
    keysRise (putKey l k v) = true := by
  induction l with
  | nil => rfl
  | cons c rest ih =>
    obtain ⟨j, w⟩ := c
    obtain ⟨h1, h2⟩ := (keysRise_cons j w rest).1 h
    simp only [putKey]
    split
    · rename_i hk
      rw [keysRise_cons]
      refine ⟨fun c hc => ?_, h⟩
      rcases List.mem_cons.1 hc with rfl | hc
      · exact hk
      · exact hk.trans (h1 c hc)
    · split
      · rename_i hk; subst hk; rw [keysRise_cons]; exact ⟨h1, h2⟩
      · rw [keysRise_cons]
        refine ⟨fun c hc => ?_, ih h2⟩
        rcases mem_putKey rest k v c hc with rfl | hc
        · simp only; omega
        · exact h1 c hc

/-- In a list with rising keys an entry is what its key looks up. -/
theorem lookupKey_of_mem {α : Type} (l : List (Nat × α)) (h : keysRise l = true) (k : Nat) (v : α) (hm : (k, v) ∈ l) :
    lookupKey l k = some v := by
  induction l with
  | nil => cases hm
  | cons c rest ih =>
    obtain ⟨j, w⟩ := c
    obtain ⟨h1, h2⟩ := (keysRise_cons j w rest).1 h
    rcases List.mem_cons.1 hm with he | hm
    · cases he; simp [lookupKey]
    · simp only [lookupKey]
      rw [if_neg (Nat.ne_of_lt (h1 _ hm))]
      exact ih h2 hm

/-! ## One byte -/

/-- The value a memory gives for an offset, over the same background. -/
theorem lookup_storeCell (s : State) (m : Memory) (off : Nat) (v : Byte) (a : Nat) :
    (lookupKey (storeCell s m off v) a).getD (unlisted s a) =
      if a = off then v else (lookupKey m a).getD (unlisted s a) := by
  unfold storeCell
  split
  · rename_i hv
    rw [lookupKey_dropKey]
    by_cases h : a = off
    · subst h; simp [hv]
    · simp [h]
  · rw [lookupKey_putKey]
    by_cases h : a = off <;> simp [h]

theorem storeCell_wf (s : State) (m : Memory) (off : Nat) (v : Byte) (hoff : listable off = true)
    (h : Memory.wf s m = true) : Memory.wf s (storeCell s m off v) = true := by
  simp only [Memory.wf, Bool.and_eq_true, List.all_eq_true] at h ⊢
  unfold storeCell
  split
  · exact ⟨keysRise_filter _ _ h.1, fun c hc => h.2 c (List.mem_of_mem_filter hc)⟩
  · rename_i hv
    refine ⟨keysRise_putKey _ _ _ h.1, fun c hc => ?_⟩
    rcases mem_putKey m off v c hc with rfl | hc
    · simp [hoff, hv]
    · exact h.2 c hc

/-! ## Runs of bytes -/

/-- What a memory gives for an offset after bytes are written: the byte written there, or what it gave before. -/
theorem lookup_storeCells (s : State) (bs : List Byte) (m : Memory) (off a : Nat) :
    (lookupKey (storeCells s m off bs) a).getD (unlisted s a) =
      if h : off ≤ a ∧ a - off < bs.length then bs[a - off] else (lookupKey m a).getD (unlisted s a) := by
  induction bs generalizing m off with
  | nil => simp [storeCells]
  | cons b rest ih =>
    simp only [storeCells, ih, lookup_storeCell, List.length_cons]
    by_cases h0 : a = off
    · subst h0
      simp
    · by_cases h1 : off + 1 ≤ a ∧ a - (off + 1) < rest.length
      · have h2 : off ≤ a ∧ a - off < rest.length + 1 := by omega
        rw [dif_pos h1, dif_pos h2]
        have h3 : a - off = a - (off + 1) + 1 := by omega
        simp [h3]
      · have h2 : ¬(off ≤ a ∧ a - off < rest.length + 1) := by omega
        rw [dif_neg h1, dif_neg h2, if_neg h0]

theorem storeCells_wf (s : State) (bs : List Byte) (m : Memory) (off : Nat)
    (hoff : ∀ i, i < bs.length → listable (off + i) = true) (h : Memory.wf s m = true) :
    Memory.wf s (storeCells s m off bs) = true := by
  induction bs generalizing m off with
  | nil => exact h
  | cons b rest ih =>
    refine ih _ _ (fun i hi => ?_) (storeCell_wf s m off b (hoff 0 (by simp)) h)
    have := hoff (i + 1) (by simpa using hi)
    rwa [show off + 1 + i = off + (i + 1) by omega]

/-- What an unlisted offset reads as depends on the parameters and on `EXCH_INIT` alone. -/
theorem unlisted_congr (s t : State) (hp : t.params = s.params) (he : t.exchInit = s.exchInit) (a : Nat) :
    unlisted t a = unlisted s a := by
  unfold unlisted; rw [hp, he]

/-- A byte reads the same in two states with the same memory, parameters and `EXCH_INIT`. -/
theorem readByte_congr (s t : State) (hm : t.mem = s.mem) (hp : t.params = s.params) (he : t.exchInit = s.exchInit)
    (a : Nat) : readByte t a = readByte s a := by
  unfold readByte; rw [hm, unlisted_congr s t hp he]

theorem Memory.wf_congr (s t : State) (hp : t.params = s.params) (he : t.exchInit = s.exchInit) (m : Memory) :
    Memory.wf t m = Memory.wf s m := by
  have h : unlisted t = unlisted s := funext (unlisted_congr s t hp he)
  simp only [Memory.wf, h]

/-- A byte after a run of bytes is written: the byte written there, or the byte as it was (R86). -/
theorem readByte_writeBytes (s : State) (off : Nat) (bs : List Byte) (a : Nat) :
    readByte (writeBytes s off bs) a =
      if h : off ≤ a ∧ a - off < bs.length then bs[a - off] else readByte s a := by
  have h := lookup_storeCells s bs s.mem off a
  simpa [readByte, unlisted_congr s (writeBytes s off bs) rfl rfl] using h

/-- A run of bytes leaves every byte outside it alone. -/
theorem readByte_writeBytes_of_outside (s : State) (off : Nat) (bs : List Byte) (a : Nat)
    (h : a < off ∨ off + bs.length ≤ a) : readByte (writeBytes s off bs) a = readByte s a := by
  rw [readByte_writeBytes, dif_neg (by omega)]

/-- R233: bytes written are the bytes read back. -/
theorem readBytes_writeBytes (s : State) (off : Nat) (bs : List Byte) :
    readBytes (writeBytes s off bs) off bs.length = bs := by
  apply List.ext_getElem
  · simp [readBytes]
  · intro i h1 h2
    simp [readBytes, readByte_writeBytes, h2]

theorem readBytes_congr (s t : State) (h : ∀ a, readByte t a = readByte s a) (off n : Nat) :
    readBytes t off n = readBytes s off n := by
  simp [readBytes, h]

theorem read32_congr (s t : State) (off : Nat) (h : ∀ i, i < 4 → readByte t (off + i) = readByte s (off + i)) :
    read32 t off = read32 s off := by
  have h0 := h 0 (by omega); have h1 := h 1 (by omega); have h2 := h 2 (by omega); have h3 := h 3 (by omega)
  simp only [Nat.add_zero] at h0
  simp [read32, h0, h1, h2, h3]

theorem littleEndian_length {w : Nat} (n : Nat) (v : BitVec w) : (littleEndian n v).length = n := by
  simp [littleEndian]

theorem littleEndian_getElem {w : Nat} (n : Nat) (v : BitVec w) (i : Nat) (h : i < (littleEndian n v).length) :
    (littleEndian n v)[i] = v.extractLsb' (8 * i) 8 := by
  simp [littleEndian]

/-- R85: a word is its four bytes, highest first. -/
theorem word_of_bytes (v : Word32) :
    (v.extractLsb' 24 8 ++ v.extractLsb' 16 8 ++ v.extractLsb' 8 8 ++ v.extractLsb' 0 8 : BitVec 32) = v := by
  apply BitVec.eq_of_getLsbD_eq
  intro i hi
  simp only [BitVec.getLsbD_append, BitVec.getLsbD_extractLsb']
  by_cases h1 : i < 8
  · simp [h1]
  · by_cases h2 : i < 16
    · simp [h1, show i - 8 < 8 by omega, show 8 + (i - 8) = i by omega]
    · by_cases h3 : i < 24
      · simp [h1, show ¬ i - 8 < 8 by omega, show i - 8 - 8 < 8 by omega, show 16 + (i - 8 - 8) = i by omega]
      · simp [h1, show ¬ i - 8 < 8 by omega, show ¬ i - 8 - 8 < 8 by omega, show i - 8 - 8 - 8 < 8 by omega,
          show 24 + (i - 8 - 8 - 8) = i by omega]

/-- R85: `read32` after `write32` at the same offset. -/
theorem read32_write32 (s : State) (off : Nat) (v : Word32) : read32 (write32 s off v) off = v := by
  conv_rhs => rw [← word_of_bytes v]
  simp [read32, write32, readByte_writeBytes, littleEndian]

/-- A word written leaves every byte outside its four alone. -/
theorem readByte_write32_of_outside (s : State) (off : Nat) (v : Word32) (a : Nat) (h : a < off ∨ off + 4 ≤ a) :
    readByte (write32 s off v) a = readByte s a :=
  readByte_writeBytes_of_outside s off _ a (by simpa [littleEndian] using h)

/-! ## The canonical form is kept -/

theorem writeBytes_wf (s : State) (off : Nat) (bs : List Byte) (hoff : ∀ i, i < bs.length → listable (off + i) = true)
    (h : Memory.wf s s.mem = true) : Memory.wf (writeBytes s off bs) (writeBytes s off bs).mem = true := by
  rw [Memory.wf_congr s (writeBytes s off bs) rfl rfl]; exact storeCells_wf s bs s.mem off hoff h

theorem filter_wf (s : State) (m : Memory) (p : Host.Cell → Bool) (h : Memory.wf s m = true) :
    Memory.wf s (m.filter p) = true := by
  simp only [Memory.wf, Bool.and_eq_true, List.all_eq_true] at h ⊢
  exact ⟨keysRise_filter _ _ h.1, fun c hc => h.2 c (List.mem_of_mem_filter hc)⟩

theorem restoreEntry_wf (s : State) (h : Memory.wf s s.mem = true) :
    Memory.wf (restoreEntry s) (restoreEntry s).mem = true := by
  rw [Memory.wf_congr s (restoreEntry s) rfl rfl]; exact filter_wf s _ _ h

theorem zeroProgbuf_wf (s : State) (h : Memory.wf s s.mem = true) :
    Memory.wf (zeroProgbuf s) (zeroProgbuf s).mem = true := by
  rw [Memory.wf_congr s (zeroProgbuf s) rfl rfl]; exact filter_wf s _ _ h

theorem moduleReset_wf (s : State) (h : Memory.wf s s.mem = true) :
    Memory.wf (moduleReset s) (moduleReset s).mem = true := by
  have h1 := restoreEntry_wf _ (zeroProgbuf_wf s h)
  rwa [← Memory.wf_congr (restoreEntry (zeroProgbuf s)) (moduleReset s) rfl rfl] at h1

/-- The exchange buffer drops out of the list, so the new `EXCH_INIT` breaks nothing. -/
theorem drawExchange_wf (s : State) (h : Memory.wf s s.mem = true) :
    Memory.wf (drawExchange s) (drawExchange s).mem = true := by
  have h1 := filter_wf s s.mem (fun c => decide (c.1 < 0x80)) h
  simp only [Memory.wf, Bool.and_eq_true, List.all_eq_true] at h1 ⊢
  refine ⟨h1.1, fun c hc => ?_⟩
  have h2 := h1.2 c hc
  have h3 : c.1 < 0x80 := by
    have := (List.mem_filter.1 hc).2
    simpa using this
  have h4 : unlisted (drawExchange s) c.1 = unlisted s c.1 := by simp [unlisted, h3]
  rw [h4]; exact h2

/-! ## The entry region and the program buffer, restored -/

theorem readByte_restoreEntry (s : State) (a : Nat) :
    readByte (restoreEntry s) a = if a < 0x10 then unlisted s a else readByte s a := by
  have h := lookupKey_filter s.mem (fun i => decide (0x10 ≤ i)) a
  simp only [readByte, restoreEntry_mem, unlisted_congr s (restoreEntry s) rfl rfl, h]
  by_cases ha : a < 0x10
  · simp [ha, Nat.not_le.2 ha]
  · simp [ha, Nat.not_lt.1 ha]

theorem readByte_zeroProgbuf (s : State) (a : Nat) :
    readByte (zeroProgbuf s) a = if 0x20 ≤ a ∧ a < 0x40 then 0#8 else readByte s a := by
  have h := lookupKey_filter s.mem (fun i => !(decide (0x20 ≤ i) && decide (i < 0x40))) a
  simp only [readByte, zeroProgbuf_mem, unlisted_congr s (zeroProgbuf s) rfl rfl, h]
  by_cases ha : 0x20 ≤ a ∧ a < 0x40
  · have h1 : ¬a < 0x10 := by omega
    have h2 : ¬a < 0x20 := by omega
    simp [ha, unlisted, h1, h2]
  · by_cases h1 : 0x20 ≤ a
    · have h2 : ¬a < 0x40 := by omega
      simp [h1, h2]
    · simp [h1]

end Sys2Proof.Machine
end

