-- ==== Sys2Proof/Laws/Bus.lean ====
section
/-! SUPPORT. The laws of the device bus: which region serves an access, and everything a load or a store can do (R220 to R234). -/

namespace Sys2Proof.Machine

/-- R220: a region serves an access exactly when the access has a byte and lies inside the region. -/
theorem regionOf_eq_some (off len : Nat) (r : Region) :
    regionOf off len = some r ↔ len ≠ 0 ∧ regionBase r ≤ off ∧ off + len ≤ regionBase r + regionSize r := by
  have key : ∀ q, regionHolds off len q = true ↔ regionBase q ≤ off ∧ off + len ≤ regionBase q + regionSize q :=
    fun q => by simp [regionHolds]
  unfold regionOf
  by_cases h0 : len = 0
  · simp [h0]
  · simp only [h0, if_false, ne_eq, not_false_eq_true, true_and]
    rw [← key r]
    have hone : ∀ q, regionHolds off len q = true → q = r ∨ regionHolds off len r = false := by
      intro q hq
      by_cases hr : regionHolds off len r = true
      · have h1 := (key q).1 hq
        have h2 := (key r).1 hr
        cases q <;> cases r <;> simp only [regionBase, regionSize] at h1 h2 <;> first | exact .inl rfl | omega
      · exact .inr (by simpa using hr)
    constructor
    · exact fun h => List.find?_some h
    · intro h
      cases hf : [Region.entry, Region.exc, Region.progbuf, Region.code, Region.exch].find? (regionHolds off len) with
      | none => exact absurd h (List.find?_eq_none.1 hf r (by cases r <;> simp))
      | some q =>
        rcases hone q (List.find?_some hf) with e | e
        · rw [e]
        · rw [e] at h; cases h

/-- R220, R88: no region serves an access exactly when it has no byte or lies inside no region. -/
theorem regionOf_eq_none (off len : Nat) :
    regionOf off len = none ↔ ∀ r, len = 0 ∨ ¬(regionBase r ≤ off ∧ off + len ≤ regionBase r + regionSize r) := by
  constructor
  · intro h r
    by_contra hc
    have := (regionOf_eq_some off len r).2 (by tauto)
    simp [h] at this
  · intro h
    cases hr : regionOf off len with
    | none => rfl
    | some r =>
      have := (regionOf_eq_some off len r).1 hr
      have := h r
      tauto

/-- A served access lies below the end of the mapped region. -/
theorem regionOf_some_bound (off len : Nat) (r : Region) (h : regionOf off len = some r) : off + len ≤ 0xA0 := by
  have := (regionOf_eq_some off len r).1 h
  cases r <;> simp [regionBase, regionSize] at this <;> omega

theorem listable_of_writable (off len : Nat) (r : Region) (h : regionOf off len = some r) (hw : regionWritable r = true)
    (i : Nat) (hi : i < len) : listable (off + i) = true := by
  have := (regionOf_eq_some off len r).1 h
  cases r <;> simp [regionWritable] at hw <;> simp [regionBase, regionSize] at this <;> simp [listable] <;> omega

/-- Everything a load from a given region can do: answer the bytes, or fail; nothing else changes (R90). -/
theorem busLoadFrom_cases (r : Region) (off len : Nat) (s : State) :
    (regionOf off len = some r ∧ busLoadFrom r off len s = respond (.bytes (readBytes s off len)) s) ∨
      (regionOf off len ≠ some r ∧ busLoadFrom r off len s = respond .fail s) := by
  unfold busLoadFrom
  by_cases h : regionOf off len = some r
  · exact .inl ⟨h, if_pos h⟩
  · exact .inr ⟨h, if_neg h⟩

/-- Everything a store to a given region can do: write the bytes, or fail and change nothing (R226, R227 to R229). -/
theorem busStoreTo_cases (r : Region) (off : Nat) (bs : List Byte) (s : State) :
    (regionOf off bs.length = some r ∧ regionWritable r = true ∧ busStoreTo r off bs s = respond .ok (writeBytes s off bs)) ∨
      (¬(regionOf off bs.length = some r ∧ regionWritable r = true) ∧ busStoreTo r off bs s = respond .fail s) := by
  unfold busStoreTo
  by_cases h : regionOf off bs.length = some r ∧ regionWritable r = true
  · exact .inl ⟨h.1, h.2, if_pos h⟩
  · exact .inr ⟨h, if_neg h⟩

/-- Everything a load can do (R221). -/
theorem busLoad_eq (off len : Nat) (s : State) :
    busLoad off len s =
      respond (if (regionOf off len).isSome then .bytes (readBytes s off len) else .fail) s := by
  unfold busLoad
  cases h : regionOf off len with
  | none => rfl
  | some r => simp [busLoadFrom, h]

/-- Everything a store can do (R226). -/
theorem busStore_eq (off : Nat) (bs : List Byte) (s : State) :
    busStore off bs s =
      if storeServed off bs.length then respond .ok (writeBytes s off bs) else respond .fail s := by
  unfold busStore storeServed
  cases h : regionOf off bs.length with
  | none => rfl
  | some r => simp [busStoreTo, h]

theorem listable_of_storeServed (off len : Nat) (h : storeServed off len = true) (i : Nat) (hi : i < len) :
    listable (off + i) = true := by
  unfold storeServed at h
  cases hr : regionOf off len with
  | none => simp [hr] at h
  | some r => exact listable_of_writable off len r hr (by simpa [hr] using h) i hi

theorem respond_wf (r : Response) (s : State) (h : Memory.wf s s.mem = true) :
    Memory.wf (respond r s) (respond r s).mem = true := by
  rwa [respond_mem, Memory.wf_congr s (respond r s) rfl rfl]

theorem busStoreTo_wf (r : Region) (off : Nat) (bs : List Byte) (s : State) (h : Memory.wf s s.mem = true) :
    Memory.wf (busStoreTo r off bs s) (busStoreTo r off bs s).mem = true := by
  rcases busStoreTo_cases r off bs s with ⟨h1, h2, h3⟩ | ⟨_, h3⟩
  · rw [h3]; exact respond_wf _ _ (writeBytes_wf s off bs (listable_of_writable off _ r h1 h2) h)
  · rw [h3]; exact respond_wf _ _ h

theorem busStore_wf (off : Nat) (bs : List Byte) (s : State) (h : Memory.wf s s.mem = true) :
    Memory.wf (busStore off bs s) (busStore off bs s).mem = true := by
  rw [busStore_eq]
  split
  · rename_i h1
    exact respond_wf _ _ (writeBytes_wf s off bs (listable_of_storeServed off _ h1) h)
  · exact respond_wf _ _ h

end Sys2Proof.Machine
end

