-- ==== Sys2Proof/Laws/Tracker.lean ====
section
/-! SUPPORT. The laws of the per-hart tracker: the two sets, the halt table, `Sync()` and `hartstatus` (R36, R249, R52 to R54). -/

namespace Sys2Proof.Machine

/-! ## Sets of hart ids -/

theorem mem_insertId (l : List Nat) (h k : Nat) : k ∈ insertId l h ↔ k = h ∨ k ∈ l := by
  induction l with
  | nil => simp [insertId]
  | cons j rest ih =>
    simp only [insertId]
    split
    · simp
    · split
      · rename_i h2; subst h2; simp
      · simp only [List.mem_cons, ih]; tauto

theorem mem_removeId (l : List Nat) (h k : Nat) : k ∈ removeId l h ↔ k ∈ l ∧ k ≠ h := by
  simp [removeId]

theorem idsRise_insertId (l : List Nat) (h : Nat) (hp : IdsRise l) : IdsRise (insertId l h) := by
  unfold IdsRise at hp ⊢
  induction l with
  | nil => simp [insertId]
  | cons j rest ih =>
    obtain ⟨h1, h2⟩ := List.pairwise_cons.1 hp
    simp only [insertId]
    split
    · rename_i hlt
      exact List.pairwise_cons.2 ⟨fun k hk => (List.mem_cons.1 hk).elim (fun e => e ▸ hlt) (fun hk => hlt.trans (h1 k hk)), hp⟩
    · split
      · exact hp
      · refine List.pairwise_cons.2 ⟨fun k hk => ?_, ih h2⟩
        rcases (mem_insertId rest h k).1 hk with rfl | hk
        · omega
        · exact h1 k hk

theorem idsRise_removeId (l : List Nat) (h : Nat) (hl : IdsRise l) : IdsRise (removeId l h) :=
  List.Pairwise.filter _ hl

theorem idsBelow_insertId (l : List Nat) (h : Nat) (hl : IdsBelow l) (hh : h < Config.maxHarts) :
    IdsBelow (insertId l h) :=
  fun k hk => ((mem_insertId l h k).1 hk).elim (fun e => e ▸ hh) (hl k)

theorem idsBelow_removeId (l : List Nat) (h : Nat) (hl : IdsBelow l) : IdsBelow (removeId l h) :=
  fun k hk => hl k ((mem_removeId l h k).1 hk).1

/-! ## The halt table -/

/-- R256, R11: a hart that exists has an entry in the halt table. -/
theorem hartExists_lt (s : State) (h : Nat) (he : hartExists s h = true) : h < 1024 := by
  have h1 := s.params.nharts.isLt
  have h2 : h < s.params.nharts.val := by simpa [hartExists] using he
  omega

theorem isHalted_setHalted (h : Nat) (b : Bool) (s : State) (k : Nat) :
    isHalted (setHalted h b s) k = if k = h ∧ h < 1024 then b else isHalted s k := by
  cases b
  · by_cases hk : k < 1024
    · by_cases he : k = h
      · subst he; simp [isHalted, hk]
      · simp [isHalted, hk, he]
    · have : ¬(k = h ∧ h < 1024) := by omega
      simp [isHalted, this, BitVec.getLsbD_of_ge _ _ (Nat.not_lt.1 hk)]
  · by_cases hk : k < 1024
    · by_cases he : k = h
      · subst he; simp [isHalted, hk]
      · simp [isHalted, he, Ne.symm he]
    · have : ¬(k = h ∧ h < 1024) := by omega
      simp [isHalted, this, BitVec.getLsbD_of_ge _ _ (Nat.not_lt.1 hk)]

/-! ## Sync() -/

theorem foldHalted_getLsbD (s : State) (l : List Nat) (t : BitVec 1024) (k : Nat) :
    (l.foldl (foldHalted s) t).getLsbD k = (t.getLsbD k || (l.contains k && hartExists s k)) := by
  induction l generalizing t with
  | nil => simp
  | cons j rest ih =>
    rw [List.foldl_cons, ih]
    by_cases he : hartExists s j = true
    · have hj := hartExists_lt s j he
      by_cases hk : k = j
      · subst hk; simp [foldHalted, he, hj]
      · simp [foldHalted, he, hk, Ne.symm hk]
    · by_cases hk : k = j
      · subst hk; simp [foldHalted, he]
      · simp [foldHalted, he, hk]

theorem mem_foldInterrupt (s : State) (l set : List Nat) (k : Nat) :
    k ∈ l.foldl (foldInterrupt s) set ↔ k ∈ set ∧ ¬(k ∈ l ∧ hartExists s k = true) := by
  induction l generalizing set with
  | nil => simp
  | cons j rest ih =>
    rw [List.foldl_cons, ih]
    by_cases he : hartExists s j = true
    · by_cases hk : k = j
      · subst hk; simp [foldInterrupt, he, mem_removeId]
      · simp [foldInterrupt, he, mem_removeId, hk]
    · by_cases hk : k = j
      · subst hk; simp [foldInterrupt, he]
      · simp [foldInterrupt, he, hk]

/-- R249: after `Sync()` a hart is recorded as halted when it was, or when it exists and had notified. -/
theorem isHalted_sync (s : State) (k : Nat) :
    isHalted (sync s) k = (isHalted s k || (s.haltNotification.contains k && hartExists s k)) :=
  foldHalted_getLsbD s s.haltNotification s.halted k

/-- R249: after `Sync()` the interrupt of an existing hart that had notified is dropped, and no other. -/
theorem mem_interrupt_sync (s : State) (k : Nat) :
    k ∈ (sync s).interrupt ↔ k ∈ s.interrupt ∧ ¬(k ∈ s.haltNotification ∧ hartExists s k = true) :=
  mem_foldInterrupt s s.haltNotification s.interrupt k

/-- R249: `Sync()` does nothing when no notification is pending. -/
theorem sync_of_empty (s : State) (h : s.haltNotification = []) : sync s = s := by
  cases s; cases h; rfl

theorem idsRise_foldInterrupt (s : State) (l set : List Nat) (h : IdsRise set) :
    IdsRise (l.foldl (foldInterrupt s) set) := by
  induction l generalizing set with
  | nil => exact h
  | cons j rest ih =>
    refine ih _ ?_
    unfold foldInterrupt
    split
    · exact idsRise_removeId set j h
    · exact h

/-- R249: `Sync()` only drops interrupts, so it keeps both forms of the set. -/
theorem idsBelow_foldInterrupt (s : State) (l set : List Nat) (h : IdsBelow set) :
    IdsBelow (l.foldl (foldInterrupt s) set) :=
  fun k hk => h k ((mem_foldInterrupt s l set k).1 hk).1

/-! ## hartstatus(h) (R36) -/

/-- `hartstatus` looks at the parameters, the owner's answers and the halt table only. -/
theorem hartStatus_congr (s t : State) (h : Nat) (hp : t.params = s.params) (hu : t.unavailable = s.unavailable)
    (hh : isHalted t h = isHalted s h) : hartStatus t h = hartStatus s h := by
  simp [hartStatus, hartExists, hartUnavailable, hp, hu, hh]

theorem hartStatus_eq_notexist (s : State) (h : Nat) : hartStatus s h = .notexist ↔ hartExists s h = false := by
  unfold hartStatus
  cases hartExists s h <;> cases hartUnavailable s h <;> cases isHalted s h <;> simp

theorem hartStatus_eq_unavailable (s : State) (h : Nat) :
    hartStatus s h = .unavailable ↔ hartExists s h = true ∧ hartUnavailable s h = true := by
  unfold hartStatus
  cases hartExists s h <;> cases hartUnavailable s h <;> cases isHalted s h <;> simp

theorem hartStatus_eq_halted (s : State) (h : Nat) :
    hartStatus s h = .halted ↔ hartExists s h = true ∧ hartUnavailable s h = false ∧ isHalted s h = true := by
  unfold hartStatus
  cases hartExists s h <;> cases hartUnavailable s h <;> cases isHalted s h <;> simp

theorem hartStatus_eq_running (s : State) (h : Nat) :
    hartStatus s h = .running ↔ hartExists s h = true ∧ hartUnavailable s h = false ∧ isHalted s h = false := by
  unfold hartStatus
  cases hartExists s h <;> cases hartUnavailable s h <;> cases isHalted s h <;> simp

end Sys2Proof.Machine
end

