-- ==== Sys2Proof/Laws/Engine.lean ====
section
/-! SUPPORT. The laws of the command engine: everything `perform`, the classes, `Stage` and the completion of a staged
action can do (R181 to R205, R251, R252). -/

namespace Sys2Proof.Machine

/-- Everything `perform` can do, in the order P1 to P9 (R181). -/
theorem perform_cases (c : Word32) (s : State) :
    (s.busy = true ∧ perform c s = setCmderr .busy s) ∨
    (s.busy = false ∧ s.cmderr ≠ .none ∧ perform c s = s) ∨
    (s.busy = false ∧ s.cmderr = .none ∧ ∃ e, e ≠ .none ∧ perform c s = setCmderr e (recordCommand c s)) ∨
    (s.busy = false ∧ s.cmderr = .none ∧ perform c s = recordCommand c s) ∨
    (s.busy = false ∧ s.cmderr = .none ∧ hartStatus s s.hartsel.toNat = .halted ∧
      perform c s = stage (compose s.params c) c s.hartsel.toNat (recordCommand c s)) := by
  have hst : hartStatus (recordCommand c s) s.hartsel.toNat = hartStatus s s.hartsel.toNat :=
    hartStatus_congr s (recordCommand c s) _ rfl rfl rfl
  unfold perform
  by_cases hb : s.busy = true
  · exact .inl ⟨hb, if_pos hb⟩
  · have hb' : s.busy = false := by simpa using hb
    right
    rw [if_neg hb]
    by_cases he : s.cmderr = .none
    · right
      rw [if_neg (not_not.2 he)]
      simp only [recordCommand_hartsel, hst]
      by_cases h1 : hartStatus s s.hartsel.toNat = .notexist
      · rw [if_pos h1]
        refine .inl ⟨hb', he, _, ?_, rfl⟩
        cases (recordCommand c s).params.noHart <;> simp [noHartError]
      rw [if_neg h1]
      by_cases h2 : cmdtype c = 0 ∧ hartStatus s s.hartsel.toNat ≠ .halted
      · rw [if_pos h2]; exact .inl ⟨hb', he, .haltresume, by simp, rfl⟩
      rw [if_neg h2]
      by_cases h3 : cmdtype c ≠ 0
      · rw [if_pos h3]; exact .inl ⟨hb', he, .notsup, by simp, rfl⟩
      rw [if_neg h3]
      by_cases h4 : transfer c = true ∧ (regno c < 0x1000 ∨ regno c > 0x101F)
      · rw [if_pos h4]; exact .inl ⟨hb', he, .notsup, by simp, rfl⟩
      rw [if_neg h4]
      by_cases h5 : transfer c = true ∧ ¬(size c = 2 ∨ (size c = 3 ∧ (recordCommand c s).params.xlen = .x64))
      · rw [if_pos h5]; exact .inl ⟨hb', he, .notsup, by simp, rfl⟩
      rw [if_neg h5]
      by_cases h6 : ¬transfer c = true ∧ ¬postexec c = true
      · rw [if_pos h6]; exact .inr (.inl ⟨hb', he, rfl⟩)
      rw [if_neg h6]
      refine .inr (.inr ⟨hb', he, ?_, rfl⟩)
      by_contra hh
      exact h2 ⟨not_not.1 h3, hh⟩
    · exact .inl ⟨hb', he, if_pos he⟩

/-- Everything a class does before or instead of its own rule (P1 to P5 of R181). -/
theorem whenAccepted_cases (c : Word32) (needsHalt : Bool) (act : Nat → State → State) (s : State) :
    (s.busy = true ∧ whenAccepted c needsHalt act s = setCmderr .busy s) ∨
    (s.busy = false ∧ s.cmderr ≠ .none ∧ whenAccepted c needsHalt act s = s) ∨
    (s.busy = false ∧ s.cmderr = .none ∧ hartStatus s s.hartsel.toNat = .notexist ∧
      whenAccepted c needsHalt act s = setCmderr (noHartError s.params.noHart) (recordCommand c s)) ∨
    (s.busy = false ∧ s.cmderr = .none ∧ needsHalt = true ∧
      (hartStatus s s.hartsel.toNat = .running ∨ hartStatus s s.hartsel.toNat = .unavailable) ∧
      whenAccepted c needsHalt act s = setCmderr .haltresume (recordCommand c s)) ∨
    (s.busy = false ∧ s.cmderr = .none ∧ hartStatus s s.hartsel.toNat ≠ .notexist ∧
      (needsHalt = true → hartStatus s s.hartsel.toNat = .halted) ∧
      whenAccepted c needsHalt act s = act s.hartsel.toNat (recordCommand c s)) := by
  have hst : hartStatus (recordCommand c s) s.hartsel.toNat = hartStatus s s.hartsel.toNat :=
    hartStatus_congr s (recordCommand c s) _ rfl rfl rfl
  unfold whenAccepted
  by_cases hb : s.busy = true
  · exact .inl ⟨hb, if_pos hb⟩
  · have hb' : s.busy = false := by simpa using hb
    by_cases he : s.cmderr = .none
    · simp only [hb, he, recordCommand_hartsel, hst, recordCommand_params]
      cases hartStatus s s.hartsel.toNat <;> cases needsHalt <;> simp
    · exact .inr (.inl ⟨hb', he, by rw [if_neg hb, if_pos he]⟩)

/-- Everything a read of `command` can return (R147, R125 (c), log 23). -/
theorem commandWord_cases (s : State) :
    (s.params.reservedCommandBits = .recorded ∧ commandWord s = s.lastCommand) ∨
    (s.params.reservedCommandBits = .zero ∧ cmdtype s.lastCommand = 0 ∧ commandWord s = s.lastCommand &&& 0xFF77FFFF#32) ∨
    (s.params.reservedCommandBits = .zero ∧ cmdtype s.lastCommand ≠ 0 ∧ commandWord s = s.lastCommand) := by
  unfold commandWord
  cases s.params.reservedCommandBits <;> by_cases h : cmdtype s.lastCommand = 0 <;> simp [h]

/-- R251: everything `action_executed` can do. -/
theorem completeExecuted_cases (s : State) :
    (s.busy = true ∧ completeExecuted s = { restoreEntry s with actionExecuted := true, busy := false }) ∨
      (s.busy = false ∧ completeExecuted s = s) := by
  unfold completeExecuted
  cases h : s.busy <;> simp

/-- R252: everything `action_faulted` can do. -/
theorem completeFaulted_cases (s : State) :
    (s.busy = true ∧
      completeFaulted s = { restoreEntry s with actionExecuted := true, busy := false, cmderr := .exception }) ∨
      (s.busy = false ∧ completeFaulted s = s) := by
  unfold completeFaulted completeExecuted
  cases h : s.busy <;> simp [setCmderr]

/-- R191: a command that stages has one word or two. -/
theorem compose_length (p : Params) (c : Word32) : (compose p c).length = 1 ∨ (compose p c).length = 2 := by
  unfold compose
  split
  · exact .inr rfl
  · exact .inl rfl

/-- The length of a run of words' bytes. -/
theorem words_length (ws : List Word32) : (ws.flatMap (littleEndian 4)).length = 4 * ws.length := by
  induction ws with
  | nil => rfl
  | cons w rest ih =>
    rw [List.flatMap_cons, List.length_append, ih, littleEndian_length, List.length_cons]; omega

/-- Byte `j` of word `i` in a run of words' bytes. -/
theorem words_getElem (ws : List Word32) (i j : Nat) (hi : i < ws.length) (hj : j < 4)
    (h : 4 * i + j < (ws.flatMap (littleEndian 4)).length) :
    (ws.flatMap (littleEndian 4))[4 * i + j] = ws[i].extractLsb' (8 * j) 8 := by
  induction ws generalizing i with
  | nil => simp at hi
  | cons w rest ih =>
    have hlen : (littleEndian 4 w).length = 4 := littleEndian_length 4 w
    cases i with
    | zero =>
      have h1 : 4 * 0 + j < (littleEndian 4 w).length := by omega
      simp only [List.flatMap_cons, List.getElem_append_left h1, littleEndian_getElem, List.getElem_cons_zero]
      simp
    | succ i =>
      have h1 : (littleEndian 4 w).length ≤ 4 * (i + 1) + j := by omega
      have h2 : 4 * (i + 1) + j - (littleEndian 4 w).length = 4 * i + j := by omega
      simp only [List.flatMap_cons, List.getElem_append_right h1, List.getElem_cons_succ, h2]
      exact ih i (by simpa using hi) _

/-- R192: the staged words read back from the entry region. -/
theorem read32_writeEntry (ws : List Word32) (s : State) (i : Nat) (h : i < ws.length) :
    read32 (writeEntry ws s) (4 * i) = ws[i] := by
  have hl := words_length ws
  have key : ∀ j, j < 4 → readByte (writeEntry ws s) (4 * i + j) = ws[i].extractLsb' (8 * j) 8 := by
    intro j hj
    have hb : 0 ≤ 4 * i + j ∧ 4 * i + j - 0 < (ws.flatMap (littleEndian 4)).length := by omega
    rw [writeEntry, readByte_writeBytes, dif_pos hb]
    exact words_getElem ws i j h hj (by omega)
  have h0 := key 0 (by omega)
  rw [Nat.add_zero] at h0
  rw [read32, h0, key 1 (by omega), key 2 (by omega), key 3 (by omega)]
  exact word_of_bytes ws[i]

/-- R192: the entry region beyond the staged words keeps what it held. -/
theorem readByte_writeEntry_of_beyond (ws : List Word32) (s : State) (a : Nat) (h : 4 * ws.length ≤ a) :
    readByte (writeEntry ws s) a = readByte s a :=
  readByte_writeBytes_of_outside s 0 _ a (by rw [words_length]; omega)

end Sys2Proof.Machine
end

