-- ==== Sys2Proof/Laws/Harts.lean ====
section
/-! SUPPORT. The laws of the harts' contexts and of the accesses a hart makes (R16, R273 to R281). -/

namespace Sys2Proof.Machine

theorem hartContext_setContext (h : Nat) (c : HartContext) (s : State) (k : Nat) :
    hartContext (setContext h c s) k = if k = h then c else hartContext s k := by
  unfold hartContext
  rw [setContext_harts, lookupKey_putKey]
  by_cases hk : k = h <;> simp [hk]

theorem readPc_setPc (h : Nat) (a : XWord) (s : State) (k : Nat) :
    readPc (setPc h a s) k = if k = h then clipXlen s.params a else readPc s k := by
  unfold readPc setPc
  rw [hartContext_setContext]
  by_cases hk : k = h <;> simp [hk]

/-- Moving a pc leaves every general register alone. -/
theorem readX_setPc (h : Nat) (a : XWord) (s : State) (k : Nat) (r : BitVec 5) :
    readX (setPc h a s) k r = readX s k r := by
  unfold readX setPc
  rw [hartContext_setContext]
  by_cases hk : k = h
  · subst hk; simp
  · simp [hk]

/-- A register written is the register read back, clipped to `XLEN`; `x0` is never written (R276). -/
theorem readX_writeX (h : Nat) (r : BitVec 5) (v : XWord) (s : State) (k : Nat) (q : BitVec 5) :
    readX (writeX h r v s) k q = if k = h ∧ q = r ∧ r ≠ 0#5 then clipXlen s.params v else readX s k q := by
  by_cases hr : r = 0#5
  · simp [writeX, hr]
  · by_cases hq : q = 0#5
    · subst hq; simp [readX, Ne.symm hr]
    · by_cases hk : k = h
      · subst hk
        have hinj : r.toNat = q.toNat ↔ q = r := by
          rw [eq_comm]; exact ⟨fun h => BitVec.eq_of_toNat_eq h, fun h => by rw [h]⟩
        simp only [readX, hq, if_false, writeX, hr, hartContext_setContext, if_true]
        rw [Vector.getElem_set]
        simp only [hinj]
        by_cases he : q = r <;> simp [he, hr]
      · simp [readX, hq, writeX, hr, hartContext_setContext, hk]

/-- Writing a register changes the contexts alone. -/
theorem writeX_eq (h : Nat) (r : BitVec 5) (v : XWord) (s : State) :
    writeX h r v s = { s with harts := (writeX h r v s).harts } := by
  unfold writeX; split <;> rfl

theorem entryAbs_eq (p : Params) : entryAbs p = dmBase p := rfl
theorem excAbs_eq (p : Params) : excAbs p = dmBase p + 0x10 := rfl
theorem progbufAbs_eq (p : Params) : progbufAbs p = dmBase p + 0x20 := rfl
theorem codeAbs_eq (p : Params) : codeAbs p = dmBase p + 0x40 := rfl
theorem exchAbs_eq (p : Params) : exchAbs p = dmBase p + 0x80 := rfl

/-- R12, R92: whatever `DM_BASE` the platform takes, the regions are aligned and a 12-bit immediate reaches the exchange
buffer. -/
theorem dmBase_bound (p : Params) : dmBase p % 64 = 0 ∧ exchAbs p + 8 ≤ 0x800 := by
  have h := p.dmBlock.isLt
  rw [exchAbs_eq, dmBase]
  omega

/-- An address below `0x800` is the same in a register of either `XLEN`. -/
theorem clipXlen_ofNat (p : Params) (a : Nat) (h : a < 0x800) : clipXlen p (BitVec.ofNat 64 a) = BitVec.ofNat 64 a := by
  unfold clipXlen
  cases p.xlen
  · apply BitVec.eq_of_toNat_eq
    simp only [BitVec.toNat_setWidth, BitVec.toNat_ofNat]
    omega
  · rfl

/-- R48: what an address of the debug ROM is. -/
theorem romAddress_inDebugRom (p : Params) (i : Fin 24) :
    InDebugRom p (clipXlen p (BitVec.ofNat 64 (romAddress p i))) := by
  have h := p.dmBlock.isLt
  have hi := i.isLt
  have hb : romAddress p i < 0x800 := by
    rw [romAddress, entryAbs_eq, codeAbs_eq, dmBase]; split <;> omega
  rw [clipXlen_ofNat p _ hb]
  by_cases h8 : i.val < 8
  · refine ⟨4 * i.val, ?_, by omega, by omega⟩
    simp only [BitVec.toNat_ofNat, romAddress, h8, if_true, entryAbs_eq, dmBase]; omega
  · refine ⟨0x40 + 4 * (i.val - 8), ?_, by omega, by omega⟩
    simp only [BitVec.toNat_ofNat, romAddress, h8, if_false, codeAbs_eq, dmBase]; omega

/-- R277: a hart that returns to the debug ROM stands at one of its words. -/
theorem readPc_returnToRom (h : Nat) (s : State) : InDebugRom s.params (readPc (returnToRom h s) h) := by
  unfold returnToRom
  rw [readPc_setPc, if_pos rfl]
  exact romAddress_inDebugRom _ _

/-- Everything taking an exception can do: at `EXC_ABS`, with the action faulted when the hart carries it, or at an address
of the hart's own (R281, R308). -/
theorem takeException_cases (h : Nat) (s : State) :
    (carriesAction s h = true ∧ takeException h s = setPc h (BitVec.ofNat 64 (excAbs s.params)) (completeFaulted s)) ∨
      (carriesAction s h = false ∧ inStagedCode s h = true ∧
        takeException h s = setPc h (BitVec.ofNat 64 (excAbs s.params)) s) ∨
      (carriesAction s h = false ∧ inStagedCode s h = false ∧ takeException h s = losePc h s) := by
  unfold takeException
  cases carriesAction s h <;> cases inStagedCode s h <;> simp

/-- Everything the trap can do: back in the debug ROM, with the action completed when the hart carries it, or at an address
of the hart's own (R277, R308). -/
theorem trapToDebugRom_cases (h : Nat) (s : State) :
    (carriesAction s h = true ∧ trapToDebugRom h s = returnToRom h (completeExecuted s)) ∨
      (carriesAction s h = false ∧ underDebugger s h = true ∧ trapToDebugRom h s = returnToRom h s) ∨
      (carriesAction s h = false ∧ underDebugger s h = false ∧ trapToDebugRom h s = losePc h s) := by
  unfold trapToDebugRom
  cases hc : carriesAction s h
  · cases underDebugger s h <;> simp
  · simp [underDebugger, hc]

/-- A hart that carries the staged action: one is in flight. -/
theorem busy_of_carriesAction (s : State) (h : Nat) (hc : carriesAction s h = true) : s.busy = true := by
  simp only [carriesAction, Bool.and_eq_true] at hc
  exact hc.1

/-- Everything a store by a hart can do (R258, R273, R274; log 9). -/
theorem hartStore_cases (h a : Nat) (bs : List Byte) (s : State) :
    (inModule s.params a = true ∧ storeServed (a - dmBase s.params) bs.length = true ∧
      hartStore h a bs s = advancePc h (respond .ok (writeBytes s (a - dmBase s.params) bs))) ∨
    (inModule s.params a = true ∧ storeServed (a - dmBase s.params) bs.length = false ∧
      hartStore h a bs s = takeException h (respond .fail s)) ∨
    (inModule s.params a = false ∧
      (hartStore h a bs s = advancePc h { respond .none s with freeCount := s.freeCount + 1 } ∨
        hartStore h a bs s = takeException h { respond .none s with freeCount := s.freeCount + 1 })) := by
  unfold hartStore
  rw [busStore_eq]
  cases h1 : inModule s.params a
  · right; right
    refine ⟨rfl, ?_⟩
    cases Config.platformMapped s.freeCount a <;> simp
  · cases h2 : storeServed (a - dmBase s.params) bs.length <;> simp

/-- Everything a load by a hart can do (R258, R275, R276; log 9). -/
theorem hartLoad_cases (h a n : Nat) (extend : XWord → XWord) (rd : BitVec 5) (s : State) :
    (inModule s.params a = true ∧ (regionOf (a - dmBase s.params) n).isSome = true ∧
      hartLoad h a n extend rd s =
        advancePc h (writeX h rd (extend (ofLittleEndian (readBytes s (a - dmBase s.params) n)))
          (respond (.bytes (readBytes s (a - dmBase s.params) n)) s))) ∨
    (inModule s.params a = true ∧ (regionOf (a - dmBase s.params) n).isSome = false ∧
      hartLoad h a n extend rd s = takeException h (respond .fail s)) ∨
    (inModule s.params a = false ∧
      (hartLoad h a n extend rd s = advancePc h (writeX h rd (extend (Config.platformData s.freeCount a))
          { respond .none s with freeCount := s.freeCount + 1 }) ∨
        hartLoad h a n extend rd s = takeException h { respond .none s with freeCount := s.freeCount + 1 })) := by
  unfold hartLoad
  rw [busLoad_eq]
  cases h1 : inModule s.params a
  · right; right
    refine ⟨rfl, ?_⟩
    cases Config.platformMapped s.freeCount a <;> simp
  · cases h2 : (regionOf (a - dmBase s.params) n).isSome <;> simp

end Sys2Proof.Machine
end

