-- ==== Sys2Proof/Laws/Frames.lean ====
section
/-! SUPPORT. What the shared operations do, in the terms of Safety.lean: `Sync()`, the stores, the regions, the completion of
an action and the exceptions of a hart. -/

namespace Sys2Proof.Machine

/-! ## Sync() (R140, R249) -/

theorem synced_sync (s : State) : Synced s (sync (clearPulses s)) where
  halted := isHalted_sync (clearPulses s)
  interrupt := mem_interrupt_sync (clearPulses s)
  notification := rfl

/-- What `Sync()` and the emptied pulse list leave unchanged, and what they change. -/
theorem syncedOnly_sync (s : State) : SyncedOnly s (sync (clearPulses s)) where
  control := { authenticated := rfl, authbusy := rfl, authtype := rfl, version := rfl, autoexec := rfl, datacount := rfl,
               dmactive := rfl, hartsel := rfl }
  engine := { busy := rfl, lastCommand := rfl, lastCommandValid := rfl, nextAction := rfl, actionExecuted := rfl, cmderr := rfl }
  synced := synced_sync s
  storage := fun a => readByte_congr s _ rfl rfl rfl a
  harts := fun _ => rfl
  outside := { params := rfl, unavailable := rfl, pending := rfl, stepping := rfl, freeCount := rfl }

/-- R36, R249: the status that a DMI transaction sees. -/
theorem hartStatus_sync (s : State) (h : Nat) : hartStatus (sync (clearPulses s)) h = statusAfterSync s h := by
  have h1 := isHalted_sync (clearPulses s) h
  unfold hartStatus statusAfterSync
  rw [h1]
  have h2 : hartExists (sync (clearPulses s)) h = hartExists s h := rfl
  have h3 : hartUnavailable (sync (clearPulses s)) h = hartUnavailable s h := rfl
  have h4 : hartExists (clearPulses s) h = hartExists s h := rfl
  have h5 : isHalted (clearPulses s) h = isHalted s h := rfl
  rw [h2, h3, h4, h5]
  cases hartExists s h <;> cases hartUnavailable s h <;> cases isHalted s h <;> simp

/-! ## Stores -/

theorem stored_writeBytes (s : State) (off : Nat) (bs : List Byte) : Stored s (writeBytes s off bs) off bs := by
  intro a
  rw [readByte_writeBytes]
  by_cases h : off ≤ a ∧ a - off < bs.length
  · have h2 : off ≤ a ∧ a < off + bs.length := by omega
    rw [dif_pos h, if_pos h2]
    simp [h.2]
  · have h2 : ¬(off ≤ a ∧ a < off + bs.length) := by omega
    rw [dif_neg h, if_neg h2]

/-- Stored bytes, seen from a state that reads the same before and from one that reads the same after. -/
theorem Stored.congr {s s' t t' : State} {off : Nat} {bs : List Byte} (h : Stored s t off bs)
    (hs : ∀ a, readByte s' a = readByte s a) (ht : ∀ a, readByte t' a = readByte t a) : Stored s' t' off bs := by
  intro a; rw [ht, hs]; exact h a

/-! ## Regions -/

theorem inside_iff (off len : Nat) : Inside off len ↔ (regionOf off len).isSome = true := by
  rw [Option.isSome_iff_exists]
  constructor
  · rintro ⟨h0, h⟩
    rcases h with h | h | h | h | h
    · exact ⟨.entry, (regionOf_eq_some _ _ _).2 (by simp only [regionBase, regionSize]; omega)⟩
    · exact ⟨.exc, (regionOf_eq_some _ _ _).2 (by simp only [regionBase, regionSize]; omega)⟩
    · exact ⟨.progbuf, (regionOf_eq_some _ _ _).2 (by simp only [regionBase, regionSize]; omega)⟩
    · exact ⟨.code, (regionOf_eq_some _ _ _).2 (by simp only [regionBase, regionSize]; omega)⟩
    · exact ⟨.exch, (regionOf_eq_some _ _ _).2 (by simp only [regionBase, regionSize]; omega)⟩
  · rintro ⟨r, hr⟩
    have h := (regionOf_eq_some _ _ _).1 hr
    unfold Inside
    cases r <;> simp only [regionBase, regionSize] at h <;> omega

theorem insideWritable_iff (off len : Nat) : InsideWritable off len ↔ storeServed off len = true := by
  unfold storeServed
  constructor
  · rintro ⟨h0, h⟩
    rcases h with h | h
    · rw [(regionOf_eq_some _ _ Region.progbuf).2 (by simp only [regionBase, regionSize]; omega)]; rfl
    · rw [(regionOf_eq_some _ _ Region.exch).2 (by simp only [regionBase, regionSize]; omega)]; rfl
  · intro h
    cases hr : regionOf off len with
    | none => rw [hr] at h; cases h
    | some r =>
      rw [hr] at h
      have h1 := (regionOf_eq_some _ _ _).1 hr
      unfold InsideWritable
      cases r <;> first | (simp [regionWritable] at h; done) | (simp only [regionBase, regionSize] at h1; omega)

/-! ## Completion and exceptions -/

theorem carries_iff (s : State) (h : Nat) : Carries s h ↔ carriesAction s h = true := by
  unfold Carries carriesAction
  cases s.busy <;> cases s.nextAction <;> simp

theorem inStagedCode_iff (s : State) (h : Nat) : InStagedCode s h ↔ inStagedCode s h = true := by
  unfold InStagedCode inStagedCode inRegion
  simp only [Bool.or_eq_true, Bool.and_eq_true, decide_eq_true_eq]
  simp only [regionBase, regionSize]
  constructor
  · rintro ⟨off, h1, h2 | ⟨hb, h2⟩⟩
    · left; omega
    · right; exact ⟨hb, by omega⟩
  · rintro (h1 | ⟨hb, h1⟩)
    · exact ⟨(readPc s h).toNat - dmBase s.params, by omega, by omega⟩
    · exact ⟨(readPc s h).toNat - dmBase s.params, by omega, .inr ⟨hb, by omega⟩⟩

theorem underDebugger_iff (s : State) (h : Nat) :
    (carriesAction s h = true ∨ UnderDebugger s h) ↔ underDebugger s h = true := by
  unfold UnderDebugger underDebugger inModule
  simp only [Bool.or_eq_true, Bool.and_eq_true, decide_eq_true_eq, Config.busSize, or_assoc]
  refine or_congr Iff.rfl (or_congr Iff.rfl ⟨?_, fun hm => ?_⟩)
  · rintro ⟨off, h1, h2⟩; omega
  · exact ⟨(readPc s h).toNat - dmBase s.params, by omega, by omega⟩

/-- R273 to R276: the words the stager writes, as the rules write them. -/
theorem stager_words (p : Params) (r : BitVec 5) :
    swWord p r = storeWordAt (exchAddress p) r 2#32 ∧ sdWord p r = storeWordAt (exchAddress p) r 3#32 ∧
      lwWord p r = loadWordAt (exchAddress p) r 2#32 ∧ ldWord p r = loadWordAt (exchAddress p) r 3#32 := by
  have ha : exchImm p = exchAddress p := rfl
  unfold swWord sdWord lwWord ldWord
  rw [ha]
  generalize exchAddress p = a
  refine ⟨?_, ?_, ?_, ?_⟩ <;> apply BitVec.eq_of_getLsbD_eq <;> intro i hi <;>
    simp only [sTypeWord, iTypeWord, storeWordAt, loadWordAt, BitVec.getLsbD_append, BitVec.getLsbD_or,
      BitVec.getLsbD_shiftLeft] <;> interval_cases i <;> simp

theorem entry_unlisted (s : State) (a : Nat) (h : a < 0x10) : unlisted s a = imageByte s.params.romEntry.toList a := by
  simp [unlisted, h]

/-- R251: everything `action_executed` does to an action in flight. -/
theorem completed_completeExecuted (s : State) (h : s.busy = true) : Completed s (completeExecuted s) where
  actionExecuted := by simp [completeExecuted, h]
  busy := by simp [completeExecuted, h]
  nextAction := by simp [completeExecuted, h]
  lastCommand := by simp [completeExecuted, h]
  lastCommandValid := by simp [completeExecuted, h]
  entry := by
    intro a
    have h1 : readByte (completeExecuted s) a = readByte (restoreEntry s) a :=
      readByte_congr _ _ (by simp [completeExecuted, h]) (by simp [completeExecuted, h]) (by simp [completeExecuted, h]) a
    rw [h1, readByte_restoreEntry]
    split
    · rename_i ha; exact entry_unlisted s a ha
    · rfl

end Sys2Proof.Machine
end

