-- ==== Sys2Proof/Laws/PerInstr.lean ====
section
/-! SUPPORT. One family of facts, instruction by instruction: the request of a well-formed instruction matches the match and
mask of its own row of spec/opcode_table.json (R129). -/

namespace Sys2Proof.Laws

set_option Elab.async false

/-- R110 to R112, R119, R123: the header of a request, the number that the opcode table's patterns are about. -/
def header : Packet → BitVec 32
  | .dmi write address _ => (dmiHeader write address).setWidth 32
  | .command c => c
  | .load off _ => BitVec.ofNat 32 off
  | .store off _ => BitVec.ofNat 32 (0x100 + off)
  | .event tag _ => tag.setWidth 32
  | .hart w => w

/-- R129: the match and the mask of an instruction's row, copied from spec/opcode_table.json. -/
def rowPattern : Instr → BitVec 32 × BitVec 32
  | .dmiReadData0 => (0x4#32, 0xFF#32)
  | .dmiWriteData0 _ => (0x84#32, 0xFF#32)
  | .dmiReadData1 => (0x5#32, 0xFF#32)
  | .dmiWriteData1 _ => (0x85#32, 0xFF#32)
  | .dmiReadData2 => (0x6#32, 0xFF#32)
  | .dmiWriteData2 _ => (0x86#32, 0xFF#32)
  | .dmiReadData3 => (0x7#32, 0xFF#32)
  | .dmiWriteData3 _ => (0x87#32, 0xFF#32)
  | .dmiReadData4 => (0x8#32, 0xFF#32)
  | .dmiWriteData4 _ => (0x88#32, 0xFF#32)
  | .dmiReadData5 => (0x9#32, 0xFF#32)
  | .dmiWriteData5 _ => (0x89#32, 0xFF#32)
  | .dmiReadData6 => (0xA#32, 0xFF#32)
  | .dmiWriteData6 _ => (0x8A#32, 0xFF#32)
  | .dmiReadData7 => (0xB#32, 0xFF#32)
  | .dmiWriteData7 _ => (0x8B#32, 0xFF#32)
  | .dmiReadDmcontrol => (0x10#32, 0xFF#32)
  | .dmiWriteDmcontrol _ => (0x90#32, 0xFF#32)
  | .dmiReadAbstractcs => (0x16#32, 0xFF#32)
  | .dmiWriteAbstractcs _ => (0x96#32, 0xFF#32)
  | .dmiReadCommand => (0x17#32, 0xFF#32)
  | .dmiWriteCommand _ => (0x97#32, 0xFF#32)
  | .dmiReadProgbuf0 => (0x20#32, 0xFF#32)
  | .dmiWriteProgbuf0 _ => (0xA0#32, 0xFF#32)
  | .dmiReadProgbuf1 => (0x21#32, 0xFF#32)
  | .dmiWriteProgbuf1 _ => (0xA1#32, 0xFF#32)
  | .dmiReadProgbuf2 => (0x22#32, 0xFF#32)
  | .dmiWriteProgbuf2 _ => (0xA2#32, 0xFF#32)
  | .dmiReadProgbuf3 => (0x23#32, 0xFF#32)
  | .dmiWriteProgbuf3 _ => (0xA3#32, 0xFF#32)
  | .dmiReadProgbuf4 => (0x24#32, 0xFF#32)
  | .dmiWriteProgbuf4 _ => (0xA4#32, 0xFF#32)
  | .dmiReadProgbuf5 => (0x25#32, 0xFF#32)
  | .dmiWriteProgbuf5 _ => (0xA5#32, 0xFF#32)
  | .dmiReadProgbuf6 => (0x26#32, 0xFF#32)
  | .dmiWriteProgbuf6 _ => (0xA6#32, 0xFF#32)
  | .dmiReadProgbuf7 => (0x27#32, 0xFF#32)
  | .dmiWriteProgbuf7 _ => (0xA7#32, 0xFF#32)
  | .arRead32 _ _ _ _ => (0x221000#32, 0xFF73FFE0#32)
  | .arWrite32 _ _ _ _ => (0x231000#32, 0xFF73FFE0#32)
  | .arRead64 _ _ _ _ => (0x321000#32, 0xFF73FFE0#32)
  | .arWrite64 _ _ _ _ => (0x331000#32, 0xFF73FFE0#32)
  | .arExec _ _ => (0x40000#32, 0xFF060000#32)
  | .arNop _ _ => (0x0#32, 0xFF060000#32)
  | .arUnsup _ => (0x20000#32, 0xFF020000#32)
  | .quick _ => (0x1000000#32, 0xFF000000#32)
  | .unknown2_3 _ => (0x2000000#32, 0xFE000000#32)
  | .unknown4_7 _ => (0x4000000#32, 0xFC000000#32)
  | .unknown8_15 _ => (0x8000000#32, 0xF8000000#32)
  | .unknown16_31 _ => (0x10000000#32, 0xF0000000#32)
  | .unknown32_63 _ => (0x20000000#32, 0xE0000000#32)
  | .unknown64_127 _ => (0x40000000#32, 0xC0000000#32)
  | .unknown128_255 _ => (0x80000000#32, 0x80000000#32)
  | .loadEntry _ _ => (0x0#32, 0x1F0#32)
  | .loadExc _ _ => (0x10#32, 0x1F0#32)
  | .loadProgbuf _ _ => (0x20#32, 0x1E0#32)
  | .loadCode _ _ => (0x40#32, 0x1C0#32)
  | .loadExch _ _ => (0x80#32, 0x1E0#32)
  | .storeEntry _ _ => (0x100#32, 0x1F0#32)
  | .storeExc _ _ => (0x110#32, 0x1F0#32)
  | .storeProgbuf _ _ => (0x120#32, 0x1E0#32)
  | .storeCode _ _ => (0x140#32, 0x1C0#32)
  | .storeExch _ _ => (0x180#32, 0x1E0#32)
  | .setInterrupt _ => (0x0#32, 0xF#32)
  | .clearInterrupt _ => (0x1#32, 0xF#32)
  | .getInterrupt _ => (0x2#32, 0xF#32)
  | .setHaltNotification _ => (0x3#32, 0xF#32)
  | .clearHaltNotification _ => (0x4#32, 0xF#32)
  | .getHaltNotification _ => (0x5#32, 0xF#32)
  | .actionExecuted => (0x6#32, 0xF#32)
  | .actionFaulted => (0x7#32, 0xF#32)
  | .powerOn => (0x8#32, 0xF#32)
  | .sw _ _ _ => (0x2023#32, 0x707F#32)
  | .sd _ _ _ => (0x3023#32, 0x707F#32)
  | .lw _ _ _ => (0x2003#32, 0x707F#32)
  | .ld _ _ _ => (0x3003#32, 0x707F#32)
  | .ebreak => (0x100073#32, 0xFFFFFFFF#32)
  | .jal _ => (0x6F#32, 0xFFF#32)

/-- The request of the instruction, when it is well formed, selects the instruction's own row. -/
def EncodesToItsRow.Statement (i : Instr) : Prop :=
  i.wf = true → header (encode i) &&& (rowPattern i).2 = (rowPattern i).1

/-- A command word that is a fixed value above free bits, under a mask that keeps the fixed bits. -/
theorem append_and_mask {n m : Nat} (k : BitVec n) (low : BitVec m) :
    (k ++ low) &&& (BitVec.allOnes n ++ 0#m) = k ++ 0#m := by
  rw [BitVec.and_append]; simp

/-- A BUS header whose first byte lies in a region has the region's leading bits (R111). -/
theorem load_row (base size off : Nat) (h : firstByteIn base size off = true) (ma mk : BitVec 32)
    (hall : ∀ i, i < size → BitVec.ofNat 32 (base + i) &&& mk = ma) : BitVec.ofNat 32 off &&& mk = ma := by
  simp only [firstByteIn, Bool.and_eq_true, decide_eq_true_eq] at h
  have := hall (off - base) (by omega)
  rwa [show base + (off - base) = off by omega] at this

theorem store_row (base size off : Nat) (h : firstByteIn base size off = true) (ma mk : BitVec 32)
    (hall : ∀ i, i < size → BitVec.ofNat 32 (0x100 + (base + i)) &&& mk = ma) :
    BitVec.ofNat 32 (0x100 + off) &&& mk = ma := by
  simp only [firstByteIn, Bool.and_eq_true, decide_eq_true_eq] at h
  have := hall (off - base) (by omega)
  rwa [show base + (off - base) = off by omega] at this

theorem EncodesToItsRow.dmiReadData0 : EncodesToItsRow.Statement .dmiReadData0 := by
  intro _
  show (dmiHeader false 0x04).setWidth 32 &&& 0xFF#32 = 0x4#32
  decide

theorem EncodesToItsRow.dmiWriteData0 (v : Word32) : EncodesToItsRow.Statement (.dmiWriteData0 v) := by
  intro _
  show (dmiHeader true 0x04).setWidth 32 &&& 0xFF#32 = 0x84#32
  decide

theorem EncodesToItsRow.dmiReadData1 : EncodesToItsRow.Statement .dmiReadData1 := by
  intro _
  show (dmiHeader false 0x05).setWidth 32 &&& 0xFF#32 = 0x5#32
  decide

theorem EncodesToItsRow.dmiWriteData1 (v : Word32) : EncodesToItsRow.Statement (.dmiWriteData1 v) := by
  intro _
  show (dmiHeader true 0x05).setWidth 32 &&& 0xFF#32 = 0x85#32
  decide

theorem EncodesToItsRow.dmiReadData2 : EncodesToItsRow.Statement .dmiReadData2 := by
  intro _
  show (dmiHeader false 0x06).setWidth 32 &&& 0xFF#32 = 0x6#32
  decide

theorem EncodesToItsRow.dmiWriteData2 (v : Word32) : EncodesToItsRow.Statement (.dmiWriteData2 v) := by
  intro _
  show (dmiHeader true 0x06).setWidth 32 &&& 0xFF#32 = 0x86#32
  decide

theorem EncodesToItsRow.dmiReadData3 : EncodesToItsRow.Statement .dmiReadData3 := by
  intro _
  show (dmiHeader false 0x07).setWidth 32 &&& 0xFF#32 = 0x7#32
  decide

theorem EncodesToItsRow.dmiWriteData3 (v : Word32) : EncodesToItsRow.Statement (.dmiWriteData3 v) := by
  intro _
  show (dmiHeader true 0x07).setWidth 32 &&& 0xFF#32 = 0x87#32
  decide

theorem EncodesToItsRow.dmiReadData4 : EncodesToItsRow.Statement .dmiReadData4 := by
  intro _
  show (dmiHeader false 0x08).setWidth 32 &&& 0xFF#32 = 0x8#32
  decide

theorem EncodesToItsRow.dmiWriteData4 (v : Word32) : EncodesToItsRow.Statement (.dmiWriteData4 v) := by
  intro _
  show (dmiHeader true 0x08).setWidth 32 &&& 0xFF#32 = 0x88#32
  decide

theorem EncodesToItsRow.dmiReadData5 : EncodesToItsRow.Statement .dmiReadData5 := by
  intro _
  show (dmiHeader false 0x09).setWidth 32 &&& 0xFF#32 = 0x9#32
  decide

theorem EncodesToItsRow.dmiWriteData5 (v : Word32) : EncodesToItsRow.Statement (.dmiWriteData5 v) := by
  intro _
  show (dmiHeader true 0x09).setWidth 32 &&& 0xFF#32 = 0x89#32
  decide

theorem EncodesToItsRow.dmiReadData6 : EncodesToItsRow.Statement .dmiReadData6 := by
  intro _
  show (dmiHeader false 0x0A).setWidth 32 &&& 0xFF#32 = 0xA#32
  decide

theorem EncodesToItsRow.dmiWriteData6 (v : Word32) : EncodesToItsRow.Statement (.dmiWriteData6 v) := by
  intro _
  show (dmiHeader true 0x0A).setWidth 32 &&& 0xFF#32 = 0x8A#32
  decide

theorem EncodesToItsRow.dmiReadData7 : EncodesToItsRow.Statement .dmiReadData7 := by
  intro _
  show (dmiHeader false 0x0B).setWidth 32 &&& 0xFF#32 = 0xB#32
  decide

theorem EncodesToItsRow.dmiWriteData7 (v : Word32) : EncodesToItsRow.Statement (.dmiWriteData7 v) := by
  intro _
  show (dmiHeader true 0x0B).setWidth 32 &&& 0xFF#32 = 0x8B#32
  decide

theorem EncodesToItsRow.dmiReadDmcontrol : EncodesToItsRow.Statement .dmiReadDmcontrol := by
  intro _
  show (dmiHeader false 0x10).setWidth 32 &&& 0xFF#32 = 0x10#32
  decide

theorem EncodesToItsRow.dmiWriteDmcontrol (v : Word32) : EncodesToItsRow.Statement (.dmiWriteDmcontrol v) := by
  intro _
  show (dmiHeader true 0x10).setWidth 32 &&& 0xFF#32 = 0x90#32
  decide

theorem EncodesToItsRow.dmiReadAbstractcs : EncodesToItsRow.Statement .dmiReadAbstractcs := by
  intro _
  show (dmiHeader false 0x16).setWidth 32 &&& 0xFF#32 = 0x16#32
  decide

theorem EncodesToItsRow.dmiWriteAbstractcs (v : Word32) : EncodesToItsRow.Statement (.dmiWriteAbstractcs v) := by
  intro _
  show (dmiHeader true 0x16).setWidth 32 &&& 0xFF#32 = 0x96#32
  decide

theorem EncodesToItsRow.dmiReadCommand : EncodesToItsRow.Statement .dmiReadCommand := by
  intro _
  show (dmiHeader false 0x17).setWidth 32 &&& 0xFF#32 = 0x17#32
  decide

theorem EncodesToItsRow.dmiWriteCommand (v : Word32) : EncodesToItsRow.Statement (.dmiWriteCommand v) := by
  intro _
  show (dmiHeader true 0x17).setWidth 32 &&& 0xFF#32 = 0x97#32
  decide

theorem EncodesToItsRow.dmiReadProgbuf0 : EncodesToItsRow.Statement .dmiReadProgbuf0 := by
  intro _
  show (dmiHeader false 0x20).setWidth 32 &&& 0xFF#32 = 0x20#32
  decide

theorem EncodesToItsRow.dmiWriteProgbuf0 (v : Word32) : EncodesToItsRow.Statement (.dmiWriteProgbuf0 v) := by
  intro _
  show (dmiHeader true 0x20).setWidth 32 &&& 0xFF#32 = 0xA0#32
  decide

theorem EncodesToItsRow.dmiReadProgbuf1 : EncodesToItsRow.Statement .dmiReadProgbuf1 := by
  intro _
  show (dmiHeader false 0x21).setWidth 32 &&& 0xFF#32 = 0x21#32
  decide

theorem EncodesToItsRow.dmiWriteProgbuf1 (v : Word32) : EncodesToItsRow.Statement (.dmiWriteProgbuf1 v) := by
  intro _
  show (dmiHeader true 0x21).setWidth 32 &&& 0xFF#32 = 0xA1#32
  decide

theorem EncodesToItsRow.dmiReadProgbuf2 : EncodesToItsRow.Statement .dmiReadProgbuf2 := by
  intro _
  show (dmiHeader false 0x22).setWidth 32 &&& 0xFF#32 = 0x22#32
  decide

theorem EncodesToItsRow.dmiWriteProgbuf2 (v : Word32) : EncodesToItsRow.Statement (.dmiWriteProgbuf2 v) := by
  intro _
  show (dmiHeader true 0x22).setWidth 32 &&& 0xFF#32 = 0xA2#32
  decide

theorem EncodesToItsRow.dmiReadProgbuf3 : EncodesToItsRow.Statement .dmiReadProgbuf3 := by
  intro _
  show (dmiHeader false 0x23).setWidth 32 &&& 0xFF#32 = 0x23#32
  decide

theorem EncodesToItsRow.dmiWriteProgbuf3 (v : Word32) : EncodesToItsRow.Statement (.dmiWriteProgbuf3 v) := by
  intro _
  show (dmiHeader true 0x23).setWidth 32 &&& 0xFF#32 = 0xA3#32
  decide

theorem EncodesToItsRow.dmiReadProgbuf4 : EncodesToItsRow.Statement .dmiReadProgbuf4 := by
  intro _
  show (dmiHeader false 0x24).setWidth 32 &&& 0xFF#32 = 0x24#32
  decide

theorem EncodesToItsRow.dmiWriteProgbuf4 (v : Word32) : EncodesToItsRow.Statement (.dmiWriteProgbuf4 v) := by
  intro _
  show (dmiHeader true 0x24).setWidth 32 &&& 0xFF#32 = 0xA4#32
  decide

theorem EncodesToItsRow.dmiReadProgbuf5 : EncodesToItsRow.Statement .dmiReadProgbuf5 := by
  intro _
  show (dmiHeader false 0x25).setWidth 32 &&& 0xFF#32 = 0x25#32
  decide

theorem EncodesToItsRow.dmiWriteProgbuf5 (v : Word32) : EncodesToItsRow.Statement (.dmiWriteProgbuf5 v) := by
  intro _
  show (dmiHeader true 0x25).setWidth 32 &&& 0xFF#32 = 0xA5#32
  decide

theorem EncodesToItsRow.dmiReadProgbuf6 : EncodesToItsRow.Statement .dmiReadProgbuf6 := by
  intro _
  show (dmiHeader false 0x26).setWidth 32 &&& 0xFF#32 = 0x26#32
  decide

theorem EncodesToItsRow.dmiWriteProgbuf6 (v : Word32) : EncodesToItsRow.Statement (.dmiWriteProgbuf6 v) := by
  intro _
  show (dmiHeader true 0x26).setWidth 32 &&& 0xFF#32 = 0xA6#32
  decide

theorem EncodesToItsRow.dmiReadProgbuf7 : EncodesToItsRow.Statement .dmiReadProgbuf7 := by
  intro _
  show (dmiHeader false 0x27).setWidth 32 &&& 0xFF#32 = 0x27#32
  decide

theorem EncodesToItsRow.dmiWriteProgbuf7 (v : Word32) : EncodesToItsRow.Statement (.dmiWriteProgbuf7 v) := by
  intro _
  show (dmiHeader true 0x27).setWidth 32 &&& 0xFF#32 = 0xA7#32
  decide

theorem EncodesToItsRow.arRead32 (b23 b19 postexec : Bool) (r : BitVec 5) : EncodesToItsRow.Statement (.arRead32 b23 b19 postexec r) := by
  intro _
  show transferWord 2#3 false b23 b19 postexec r &&& 0xFF73FFE0#32 = 0x221000#32
  revert b23 b19 postexec r
  decide +kernel

theorem EncodesToItsRow.arWrite32 (b23 b19 postexec : Bool) (r : BitVec 5) : EncodesToItsRow.Statement (.arWrite32 b23 b19 postexec r) := by
  intro _
  show transferWord 2#3 true b23 b19 postexec r &&& 0xFF73FFE0#32 = 0x231000#32
  revert b23 b19 postexec r
  decide +kernel

theorem EncodesToItsRow.arRead64 (b23 b19 postexec : Bool) (r : BitVec 5) : EncodesToItsRow.Statement (.arRead64 b23 b19 postexec r) := by
  intro _
  show transferWord 3#3 false b23 b19 postexec r &&& 0xFF73FFE0#32 = 0x321000#32
  revert b23 b19 postexec r
  decide +kernel

theorem EncodesToItsRow.arWrite64 (b23 b19 postexec : Bool) (r : BitVec 5) : EncodesToItsRow.Statement (.arWrite64 b23 b19 postexec r) := by
  intro _
  show transferWord 3#3 true b23 b19 postexec r &&& 0xFF73FFE0#32 = 0x331000#32
  revert b23 b19 postexec r
  decide +kernel

theorem EncodesToItsRow.arExec (hi : BitVec 5) (lo : BitVec 17) : EncodesToItsRow.Statement (.arExec hi lo) := by
  intro _
  show executeWord true hi lo &&& 0xFF060000#32 = 0x40000#32
  apply BitVec.eq_of_getLsbD_eq
  intro i hi
  simp only [executeWord, BitVec.getLsbD_and, BitVec.getLsbD_append]
  interval_cases i <;> simp

theorem EncodesToItsRow.arNop (hi : BitVec 5) (lo : BitVec 17) : EncodesToItsRow.Statement (.arNop hi lo) := by
  intro _
  show executeWord false hi lo &&& 0xFF060000#32 = 0x0#32
  apply BitVec.eq_of_getLsbD_eq
  intro i hi
  simp only [executeWord, BitVec.getLsbD_and, BitVec.getLsbD_append]
  interval_cases i <;> simp

theorem EncodesToItsRow.arUnsup (low : BitVec 24) : EncodesToItsRow.Statement (.arUnsup low) := by
  intro h
  have h17 : low.getLsbD 17 = true := (Bool.and_eq_true _ _ ▸ (h : (low.getLsbD 17 && !accessSupported low) = true)).1
  show (0#8 ++ low) &&& 0xFF020000#32 = 0x20000#32
  apply BitVec.eq_of_getLsbD_eq
  intro i hi
  simp only [BitVec.getLsbD_and, BitVec.getLsbD_append]
  interval_cases i <;> simp_all

theorem EncodesToItsRow.quick (low : BitVec 24) : EncodesToItsRow.Statement (.quick low) :=
  fun _ => append_and_mask 1#8 low

theorem EncodesToItsRow.unknown2_3 (low : BitVec 25) : EncodesToItsRow.Statement (.unknown2_3 low) :=
  fun _ => append_and_mask 1#7 low

theorem EncodesToItsRow.unknown4_7 (low : BitVec 26) : EncodesToItsRow.Statement (.unknown4_7 low) :=
  fun _ => append_and_mask 1#6 low

theorem EncodesToItsRow.unknown8_15 (low : BitVec 27) : EncodesToItsRow.Statement (.unknown8_15 low) :=
  fun _ => append_and_mask 1#5 low

theorem EncodesToItsRow.unknown16_31 (low : BitVec 28) : EncodesToItsRow.Statement (.unknown16_31 low) :=
  fun _ => append_and_mask 1#4 low

theorem EncodesToItsRow.unknown32_63 (low : BitVec 29) : EncodesToItsRow.Statement (.unknown32_63 low) :=
  fun _ => append_and_mask 1#3 low

theorem EncodesToItsRow.unknown64_127 (low : BitVec 30) : EncodesToItsRow.Statement (.unknown64_127 low) :=
  fun _ => append_and_mask 1#2 low

theorem EncodesToItsRow.unknown128_255 (low : BitVec 31) : EncodesToItsRow.Statement (.unknown128_255 low) :=
  fun _ => append_and_mask 1#1 low

theorem EncodesToItsRow.loadEntry (off len : Nat) : EncodesToItsRow.Statement (.loadEntry off len) :=
  fun h => load_row 0x0 0x10 off h 0x0#32 0x1F0#32 (by decide)

theorem EncodesToItsRow.loadExc (off len : Nat) : EncodesToItsRow.Statement (.loadExc off len) :=
  fun h => load_row 0x10 0x10 off h 0x10#32 0x1F0#32 (by decide)

theorem EncodesToItsRow.loadProgbuf (off len : Nat) : EncodesToItsRow.Statement (.loadProgbuf off len) :=
  fun h => load_row 0x20 0x20 off h 0x20#32 0x1E0#32 (by decide)

theorem EncodesToItsRow.loadCode (off len : Nat) : EncodesToItsRow.Statement (.loadCode off len) :=
  fun h => load_row 0x40 0x40 off h 0x40#32 0x1C0#32 (by decide)

theorem EncodesToItsRow.loadExch (off len : Nat) : EncodesToItsRow.Statement (.loadExch off len) :=
  fun h => load_row 0x80 0x20 off h 0x80#32 0x1E0#32 (by decide)

theorem EncodesToItsRow.storeEntry (off : Nat) (bytes : List Byte) : EncodesToItsRow.Statement (.storeEntry off bytes) :=
  fun h => store_row 0x0 0x10 off h 0x100#32 0x1F0#32 (by decide)

theorem EncodesToItsRow.storeExc (off : Nat) (bytes : List Byte) : EncodesToItsRow.Statement (.storeExc off bytes) :=
  fun h => store_row 0x10 0x10 off h 0x110#32 0x1F0#32 (by decide)

theorem EncodesToItsRow.storeProgbuf (off : Nat) (bytes : List Byte) : EncodesToItsRow.Statement (.storeProgbuf off bytes) :=
  fun h => store_row 0x20 0x20 off h 0x120#32 0x1E0#32 (by decide)

theorem EncodesToItsRow.storeCode (off : Nat) (bytes : List Byte) : EncodesToItsRow.Statement (.storeCode off bytes) :=
  fun h => store_row 0x40 0x40 off h 0x140#32 0x1C0#32 (by decide)

theorem EncodesToItsRow.storeExch (off : Nat) (bytes : List Byte) : EncodesToItsRow.Statement (.storeExch off bytes) :=
  fun h => store_row 0x80 0x20 off h 0x180#32 0x1E0#32 (by decide)

theorem EncodesToItsRow.setInterrupt (h : Nat) : EncodesToItsRow.Statement (.setInterrupt h) := by
  intro _
  show BitVec.setWidth 32 (0#4) &&& 0xF#32 = 0x0#32
  decide

theorem EncodesToItsRow.clearInterrupt (h : Nat) : EncodesToItsRow.Statement (.clearInterrupt h) := by
  intro _
  show BitVec.setWidth 32 (1#4) &&& 0xF#32 = 0x1#32
  decide

theorem EncodesToItsRow.getInterrupt (h : Nat) : EncodesToItsRow.Statement (.getInterrupt h) := by
  intro _
  show BitVec.setWidth 32 (2#4) &&& 0xF#32 = 0x2#32
  decide

theorem EncodesToItsRow.setHaltNotification (h : Nat) : EncodesToItsRow.Statement (.setHaltNotification h) := by
  intro _
  show BitVec.setWidth 32 (3#4) &&& 0xF#32 = 0x3#32
  decide

theorem EncodesToItsRow.clearHaltNotification (h : Nat) : EncodesToItsRow.Statement (.clearHaltNotification h) := by
  intro _
  show BitVec.setWidth 32 (4#4) &&& 0xF#32 = 0x4#32
  decide

theorem EncodesToItsRow.getHaltNotification (h : Nat) : EncodesToItsRow.Statement (.getHaltNotification h) := by
  intro _
  show BitVec.setWidth 32 (5#4) &&& 0xF#32 = 0x5#32
  decide

theorem EncodesToItsRow.actionExecuted : EncodesToItsRow.Statement .actionExecuted := by
  intro _
  show BitVec.setWidth 32 (6#4) &&& 0xF#32 = 0x6#32
  decide

theorem EncodesToItsRow.actionFaulted : EncodesToItsRow.Statement .actionFaulted := by
  intro _
  show BitVec.setWidth 32 (7#4) &&& 0xF#32 = 0x7#32
  decide

theorem EncodesToItsRow.powerOn : EncodesToItsRow.Statement .powerOn := by
  intro _
  show BitVec.setWidth 32 (8#4) &&& 0xF#32 = 0x8#32
  decide

theorem EncodesToItsRow.sw (imm : BitVec 12) (rs2 rs1 : BitVec 5) : EncodesToItsRow.Statement (.sw imm rs2 rs1) := by
  intro _
  show sTypeWord imm rs2 rs1 2#3 &&& 0x707F#32 = 0x2023#32
  apply BitVec.eq_of_getLsbD_eq
  intro i hi
  simp only [sTypeWord, BitVec.getLsbD_and, BitVec.getLsbD_append]
  interval_cases i <;> simp

theorem EncodesToItsRow.sd (imm : BitVec 12) (rs2 rs1 : BitVec 5) : EncodesToItsRow.Statement (.sd imm rs2 rs1) := by
  intro _
  show sTypeWord imm rs2 rs1 3#3 &&& 0x707F#32 = 0x3023#32
  apply BitVec.eq_of_getLsbD_eq
  intro i hi
  simp only [sTypeWord, BitVec.getLsbD_and, BitVec.getLsbD_append]
  interval_cases i <;> simp

theorem EncodesToItsRow.lw (imm : BitVec 12) (rs1 rd : BitVec 5) : EncodesToItsRow.Statement (.lw imm rs1 rd) := by
  intro _
  show iTypeWord imm rs1 rd 2#3 &&& 0x707F#32 = 0x2003#32
  apply BitVec.eq_of_getLsbD_eq
  intro i hi
  simp only [iTypeWord, BitVec.getLsbD_and, BitVec.getLsbD_append]
  interval_cases i <;> simp

theorem EncodesToItsRow.ld (imm : BitVec 12) (rs1 rd : BitVec 5) : EncodesToItsRow.Statement (.ld imm rs1 rd) := by
  intro _
  show iTypeWord imm rs1 rd 3#3 &&& 0x707F#32 = 0x3003#32
  apply BitVec.eq_of_getLsbD_eq
  intro i hi
  simp only [iTypeWord, BitVec.getLsbD_and, BitVec.getLsbD_append]
  interval_cases i <;> simp

theorem EncodesToItsRow.ebreak : EncodesToItsRow.Statement .ebreak :=
  fun _ => rfl

theorem EncodesToItsRow.jal (imm : BitVec 21) : EncodesToItsRow.Statement (.jal imm) := by
  intro _
  show jalWord imm &&& 0xFFF#32 = 0x6F#32
  apply BitVec.eq_of_getLsbD_eq
  intro i hi
  simp only [jalWord, BitVec.getLsbD_and, BitVec.getLsbD_append]
  interval_cases i <;> simp

end Sys2Proof.Laws
end

