-- ==== Sys2Proof/Tests/Slice0.lean ====
section
/-! SUPPORT. The model's own tests: the checks of WellFormed, words written out from the spec's encodings, one-step examples of
the spec, and for every statement with hypotheses a state and operands that meet them. -/

namespace Sys2Proof.Tests

open Sys2Proof.Machine

set_option Elab.async false

/-! ## WellFormed: an ill-formed term for each check -/

theorem test_wf_unsup_needs_transfer : (Instr.arUnsup 0x0207B0#24).wf = true ∧ (Instr.arUnsup 0x0007B0#24).wf = false := by decide
theorem test_wf_unsup_not_supported : (Instr.arUnsup 0x221000#24).wf = false ∧ (Instr.arUnsup 0x221020#24).wf = true := by decide
theorem test_wf_load_entry : (Instr.loadEntry 0x10 1).wf = false := by decide
theorem test_wf_load_exc : (Instr.loadExc 0x0F 1).wf = false := by decide
theorem test_wf_load_progbuf : (Instr.loadProgbuf 0x40 1).wf = false := by decide
theorem test_wf_load_code : (Instr.loadCode 0x3F 1).wf = false := by decide
theorem test_wf_load_exch : (Instr.loadExch 0xA0 1).wf = false := by decide
theorem test_wf_store_entry : (Instr.storeEntry 0x10 [0#8]).wf = false := by decide
theorem test_wf_store_exc : (Instr.storeExc 0x20 [0#8]).wf = false := by decide
theorem test_wf_store_progbuf : (Instr.storeProgbuf 0x1F [0#8]).wf = false := by decide
theorem test_wf_store_code : (Instr.storeCode 0x80 [0#8]).wf = false := by decide
theorem test_wf_store_exch : (Instr.storeExch 0x7F [0#8]).wf = false := by decide
theorem test_wf_jal_even : (Instr.jal 0x1D#21).wf = false ∧ (Instr.jal 0x1C#21).wf = true := by decide

/-! ## Decoding: each row's word, from the match of its row in spec/opcode_table.json and the examples of the rules -/

/-- R110: headers 0x04 to 0x0B and 0x84 to 0x8B. -/
theorem test_decode_data :
    [0x04, 0x05, 0x06, 0x07, 0x08, 0x09, 0x0A, 0x0B].map (fun h => decodeDmiHeader (BitVec.ofNat 8 h) 7#32) =
      [some .dmiReadData0, some .dmiReadData1, some .dmiReadData2, some .dmiReadData3, some .dmiReadData4,
       some .dmiReadData5, some .dmiReadData6, some .dmiReadData7] ∧
    [0x84, 0x85, 0x86, 0x87, 0x88, 0x89, 0x8A, 0x8B].map (fun h => decodeDmiHeader (BitVec.ofNat 8 h) 7#32) =
      [some (.dmiWriteData0 7#32), some (.dmiWriteData1 7#32), some (.dmiWriteData2 7#32), some (.dmiWriteData3 7#32),
       some (.dmiWriteData4 7#32), some (.dmiWriteData5 7#32), some (.dmiWriteData6 7#32), some (.dmiWriteData7 7#32)] := by
  decide

/-- R110: headers 0x10, 0x16, 0x17 and 0x90, 0x96, 0x97. -/
theorem test_decode_control :
    [0x10, 0x16, 0x17, 0x90, 0x96, 0x97].map (fun h => decodeDmiHeader (BitVec.ofNat 8 h) 7#32) =
      [some .dmiReadDmcontrol, some .dmiReadAbstractcs, some .dmiReadCommand, some (.dmiWriteDmcontrol 7#32),
       some (.dmiWriteAbstractcs 7#32), some (.dmiWriteCommand 7#32)] := by
  decide

/-- R110: headers 0x20 to 0x27 and 0xA0 to 0xA7. -/
theorem test_decode_progbuf :
    [0x20, 0x21, 0x22, 0x23, 0x24, 0x25, 0x26, 0x27].map (fun h => decodeDmiHeader (BitVec.ofNat 8 h) 7#32) =
      [some .dmiReadProgbuf0, some .dmiReadProgbuf1, some .dmiReadProgbuf2, some .dmiReadProgbuf3, some .dmiReadProgbuf4,
       some .dmiReadProgbuf5, some .dmiReadProgbuf6, some .dmiReadProgbuf7] ∧
    [0xA0, 0xA1, 0xA2, 0xA3, 0xA4, 0xA5, 0xA6, 0xA7].map (fun h => decodeDmiHeader (BitVec.ofNat 8 h) 7#32) =
      [some (.dmiWriteProgbuf0 7#32), some (.dmiWriteProgbuf1 7#32), some (.dmiWriteProgbuf2 7#32),
       some (.dmiWriteProgbuf3 7#32), some (.dmiWriteProgbuf4 7#32), some (.dmiWriteProgbuf5 7#32),
       some (.dmiWriteProgbuf6 7#32), some (.dmiWriteProgbuf7 7#32)] := by
  decide

/-- R81, R153: addresses outside the map, one of them beyond seven bits. -/
theorem test_decode_unmapped :
    [0x00, 0x03, 0x0C, 0x11, 0x18, 0x28, 0x84].map (fun a => decode (.dmi false a 0#32)) =
      [none, none, none, none, none, none, none] := by
  decide

/-- R194 to R197: register x5, written out field by field: cmdtype 8, 1, size 3, 1, postexec, transfer, write, regno 16. -/
theorem test_decode_access :
    decodeCommand 0b00000000_0_010_0_0_1_0_0001000000000101#32 = .arRead32 false false false 5#5 ∧
    decodeCommand 0b00000000_0_010_0_1_1_1_0001000000000101#32 = .arWrite32 false false true 5#5 ∧
    decodeCommand 0b00000000_1_011_0_0_1_0_0001000000011111#32 = .arRead64 true false false 31#5 ∧
    decodeCommand 0b00000000_0_011_1_0_1_1_0001000000000000#32 = .arWrite64 false true false 0#5 := by
  decide

/-- R198 to R202: the other classes, by `cmdtype`, `transfer` and `postexec`. -/
theorem test_decode_other_classes :
    decodeCommand 0x00040000#32 = .arExec 0#5 0#17 ∧ decodeCommand 0x00000000#32 = .arNop 0#5 0#17 ∧
    decodeCommand 0x002207B0#32 = .arUnsup 0x2207B0#24 ∧ decodeCommand 0x01000000#32 = .quick 0#24 ∧
    decodeCommand 0x03000001#32 = .unknown2_3 0x1000001#25 ∧ decodeCommand 0x04000000#32 = .unknown4_7 0#26 ∧
    decodeCommand 0x0F000000#32 = .unknown8_15 0x7000000#27 ∧ decodeCommand 0x10000000#32 = .unknown16_31 0#28 ∧
    decodeCommand 0x20000000#32 = .unknown32_63 0#29 ∧ decodeCommand 0x7F000000#32 = .unknown64_127 0x3F000000#30 ∧
    decodeCommand 0xFF000000#32 = .unknown128_255 0x7F000000#31 := by
  decide

/-- R111: the first and the last offset of each region. -/
theorem test_decode_bus :
    decode (.load 0x00 4) = some (.loadEntry 0x00 4) ∧ decode (.load 0x1F 1) = some (.loadExc 0x1F 1) ∧
    decode (.load 0x20 4) = some (.loadProgbuf 0x20 4) ∧ decode (.load 0x7F 1) = some (.loadCode 0x7F 1) ∧
    decode (.load 0x9F 1) = some (.loadExch 0x9F 1) ∧ decode (.load 0xA0 1) = none ∧
    decode (.store 0x0F [1#8]) = some (.storeEntry 0x0F [1#8]) ∧ decode (.store 0x10 [1#8]) = some (.storeExc 0x10 [1#8]) ∧
    decode (.store 0x3F [1#8]) = some (.storeProgbuf 0x3F [1#8]) ∧ decode (.store 0x40 [1#8]) = some (.storeCode 0x40 [1#8]) ∧
    decode (.store 0x80 [1#8]) = some (.storeExch 0x80 [1#8]) ∧ decode (.store 0xA0 [1#8]) = none := by
  decide

/-- R112: the nine tags, and the first that is none. -/
theorem test_decode_events :
    [0#4, 1#4, 2#4, 3#4, 4#4, 5#4, 6#4, 7#4, 8#4, 9#4].map (fun t => decode (.event t 2)) =
      [some (.setInterrupt 2), some (.clearInterrupt 2), some (.getInterrupt 2), some (.setHaltNotification 2),
       some (.clearHaltNotification 2), some (.getHaltNotification 2), some .actionExecuted, some .actionFaulted,
       some .powerOn, none] := by
  decide

/-- R271 to R278: `sw x5, 0x180(x0)`, `sd`, `lw`, `ld` written out field by field, the fixed word, and the two jumps of R278. -/
theorem test_decode_instruction_words :
    decodeHart 0b0001100_00101_00000_010_00000_0100011#32 = some (.sw 0x180#12 5#5 0#5) ∧
    decodeHart 0b0001100_00101_00000_011_00000_0100011#32 = some (.sd 0x180#12 5#5 0#5) ∧
    decodeHart 0b000110000000_00000_010_00101_0000011#32 = some (.lw 0x180#12 0#5 5#5) ∧
    decodeHart 0b000110000000_00000_011_00101_0000011#32 = some (.ld 0x180#12 0#5 5#5) ∧
    decodeHart 0x00100073#32 = some .ebreak ∧
    decodeHart 0b0_0000001110_0_00000000_00000_1101111#32 = some (.jal 0x1C#21) ∧
    decodeHart 0x0200006F#32 = some (.jal 0x20#21) ∧ decodeHart 0#32 = none := by
  decide

/-- R119, R129 (log 5): the table's numbers reach the same decoder. -/
theorem test_decode_table_word :
    decodeTableWord 8 0x90 = some (.dmiWriteDmcontrol 0#32) ∧ decodeTableWord 16 0x180 = some (.storeExch 0x80 []) ∧
    decodeTableWord 32 0x00221000 = some (.arRead32 false false false 0#5) ∧ decodeTableWord 8 0x7 = some .actionFaulted ∧
    decodeTableWord 32 0x00002023 = some (.sw 0#12 0#5 0#5) := by
  decide

/-! ## Small states -/

/-- `NHARTS = 4`, the reference ROM image (R282), an exchange buffer of zeros, and the family of examples' `XLEN`. -/
def idle (x : Xlen) : State :=
  { State.reset with params := Params.withReferenceRom 4 x .exception .recorded, exchInit := Vector.replicate 32 0#8, freeCount := 0 }

/-- Hart 0 selected and HALTED, with `x5 = 0xFFFFFFFFDEADBEEF` clipped to `XLEN`. -/
def halted0 (x : Xlen) : State :=
  writeX 0 5#5 0xFFFFFFFFDEADBEEF#64 (setHalted 0 true { idle x with dmactive := true })

/-- The state an instruction leaves, or the given one where it stops. -/
def after (i : Instr) (s : State) : State :=
  match exec i s with
  | .next t => t
  | _ => s

/-- Hart 0 HALTED with `AR.READ32` of `x5` staged. -/
def staged (x : Xlen) : State := after (.arRead32 false false false 5#5) (halted0 x)

/-- Hart 1 about to execute the first word of the program buffer. -/
def inProgbuf (s : State) : State := setPc 1 (BitVec.ofNat 64 (progbufAbs s.params)) { s with stepping := 1 }

/-- R92, R12: the same module at the highest `DM_BASE` that R12 allows, 0x740. -/
def atTop (s : State) : State := { s with params := { s.params with dmBlock := 29 } }

/-! ## One-step examples, each from the rule it names -/

/-- R141: after `power_on`, `dmi_read 0x10` returns 0x04000081. -/
theorem test_read_dmcontrol : (after .dmiReadDmcontrol (idle .x32)).response = .word 0x04000081#32 := by decide +kernel
/-- R142: `dmi_write 0x10, 0xA0010000` gives `interrupt = {1}`, no pulse. -/
theorem test_halt_request :
    let t := after (.dmiWriteDmcontrol 0xA0010000#32) (idle .x32)
    t.dmactive = true ∧ t.hartsel = 1#10 ∧ t.interrupt = [1] ∧ t.pulses = [] := by decide +kernel
/-- R144: hart 2 HALTED, `dmi_write 0x10, 0x30020000`: `halted[2] = 0`, output `Resume(2)`. -/
theorem test_resume_request :
    let t := after (.dmiWriteDmcontrol 0x30020000#32) (setHalted 2 true (idle .x32))
    isHalted t 2 = false ∧ t.pulses = [.resume 2] := by decide +kernel
/-- R154: hart 1 HALTED, `dmi_write 0x10, 0x60010000`: output `HartReset(1)`. -/
theorem test_hart_reset :
    let t := after (.dmiWriteDmcontrol 0x60010000#32) (setHalted 1 true (idle .x32))
    isHalted t 1 = false ∧ t.pulses = [.hartReset 1] ∧
      (after .dmiReadDmcontrol t).response = .word 0x24010081#32 := by decide +kernel
/-- R145: with `cmderr = NOTSUP` and `autoexec[0] = 1`: 0x00010208. -/
theorem test_read_abstractcs :
    (after .dmiReadAbstractcs { idle .x32 with cmderr := .notsup, autoexec := 1#8 }).response = .word 0x00010208#32 := by
  decide +kernel
/-- R146: EXCEPTION (code 3) is kept by the mask 1 and cleared by 3. -/
theorem test_write_abstractcs :
    (after (.dmiWriteAbstractcs 0x00000100#32) { idle .x32 with cmderr := .exception }).cmderr = .exception ∧
    (after (.dmiWriteAbstractcs 0x00810300#32) { idle .x32 with cmderr := .exception }).cmderr = .none ∧
    (after (.dmiWriteAbstractcs 0x00810300#32) (idle .x32)).autoexec = 0x81#8 := by decide +kernel
/-- R147: after `dmi_write 0x17, 0x00221005` on a halted hart, `dmi_read 0x17` returns 0x00221005. -/
theorem test_read_command : (after .dmiReadCommand (staged .x32)).response = .word 0x00221005#32 := by decide +kernel
/-- R125 (c), R119: bits 23 and 19 read as 0 under that rule, when the word has `cmdtype = 0`; under R147 they do not. -/
theorem test_read_command_reserved :
    let t := after (.dmiWriteCommand 0x00A91005#32) (halted0 .x32)
    let z := { t with params := { t.params with reservedCommandBits := .zero } }
    (after .dmiReadCommand z).response = .word 0x00211005#32 ∧ (after .dmiReadCommand t).response = .word 0x00A91005#32 ∧
    (after .dmiReadCommand { z with lastCommand := 0x01880000#32 }).response = .word 0x01880000#32 := by decide +kernel
/-- R297: hart 5 when only harts 0 to 3 exist: `dmi_read 0x16` returns 0x00000308. -/
theorem test_command_no_such_hart :
    (after .dmiReadAbstractcs (after (.dmiWriteCommand 0x00221005#32) { idle .x32 with hartsel := 5#10 })).response =
      .word 0x00000308#32 := by decide +kernel
/-- R86: `store(0x81, 1, [0xAB])`, then `dmi_read(0x04)` returns 0x0000AB00. -/
theorem test_mixed_width :
    (after .dmiReadData0 (after (.storeExch 0x81 [0xAB#8]) (idle .x32))).response = .word 0x0000AB00#32 := by decide +kernel
/-- R150: `autoexec[0] = 1`, `last_command = 0x00231005`: the write stores the word and stages `lw x5, 0x180(x0)`. -/
theorem test_autoexec :
    let t := after (.dmiWriteData0 0x12345678#32)
      { halted0 .x32 with autoexec := 1#8, lastCommand := 0x00231005#32, lastCommandValid := true }
    read32 t 0x80 = 0x12345678#32 ∧ read32 t 0 = 0x18002283#32 ∧ t.busy = true ∧ t.response = .ok := by decide +kernel
/-- R149, R150: slot 7 is the last word of the exchange buffer. -/
theorem test_data7 :
    let t := after (.dmiWriteData7 0x01020304#32) (idle .x32)
    readByte t 0x9F = 0x01#8 ∧ (after .dmiReadData7 t).response = .word 0x01020304#32 := by decide +kernel
/-- R224: after `dmi_write 0x21, 0x00100073`, `load 0x24, 4` returns `[73 00 10 00]`. -/
theorem test_progbuf1 :
    (after (.loadProgbuf 0x24 4) (after (.dmiWriteProgbuf1 0x00100073#32) (idle .x32))).response =
      .bytes [0x73#8, 0x00#8, 0x10#8, 0x00#8] := by decide +kernel
/-- R222: after staging `AR.READ32` of `x5`, `load 0x00, 8` returns `[23 20 50 18 73 00 10 00]`; at rest `[6F 00 00 04]`. -/
theorem test_load_entry :
    (after (.loadEntry 0x00 8) (staged .x32)).response =
      .bytes [0x23#8, 0x20#8, 0x50#8, 0x18#8, 0x73#8, 0x00#8, 0x10#8, 0x00#8] ∧
    (after (.loadEntry 0x00 4) (idle .x32)).response = .bytes [0x6F#8, 0x00#8, 0x00#8, 0x04#8] := by decide +kernel
/-- R223, R225, R234: the two constant images, and an access that crosses a bound. -/
theorem test_load_rom :
    (after (.loadExc 0x10 4) (idle .x32)).response = .bytes [0x6F#8, 0x00#8, 0x00#8, 0x00#8] ∧
    (after (.loadCode 0x40 4) (idle .x32)).response = .bytes [0x6F#8, 0x00#8, 0x00#8, 0x00#8] ∧
    (after (.loadEntry 0x0E 4) (idle .x32)).response = .fail := by decide +kernel
/-- R230: `load 0x9C, 4` succeeds, `load 0x9D, 4` fails. -/
theorem test_load_exch_bound :
    (after (.loadExch 0x9C 4) (idle .x32)).response = .bytes [0#8, 0#8, 0#8, 0#8] ∧
    (after (.loadExch 0x9D 4) (idle .x32)).response = .fail := by decide +kernel
/-- R227 to R229: the examples of the refused stores. -/
theorem test_store_rom :
    (after (.storeEntry 0x00 [0x13#8, 0#8, 0#8, 0#8]) (idle .x32)).response = .fail ∧
    (after (.storeExc 0x10 [0#8]) (idle .x32)).response = .fail ∧
    (after (.storeCode 0x7C [0#8, 0#8, 0#8, 0#8]) (idle .x32)).response = .fail := by decide +kernel
/-- R231: `store 0x20, 2, [01 02]`, then `dmi_read 0x20` returns 0x00000201. -/
theorem test_store_progbuf :
    (after .dmiReadProgbuf0 (after (.storeProgbuf 0x20 [1#8, 2#8]) (idle .x32))).response = .word 0x00000201#32 := by
  decide +kernel
/-- R244's scenario. -/
theorem test_interrupt_accessors :
    let t := after (.setInterrupt 2) (idle .x32)
    (after (.getInterrupt 2) t).response = .member true ∧ (after (.getInterrupt 1) t).response = .member false ∧
    (after (.getInterrupt 2) (after (.clearInterrupt 2) t)).response = .member false ∧
    (after (.setInterrupt 1024) (idle .x32)).response = .fail := by decide +kernel
/-- R245, R246: a notification that is withdrawn before it is folded is never recorded. -/
theorem test_notification_accessors :
    let t := after (.setHaltNotification 1) (idle .x32)
    (after (.getHaltNotification 1) t).response = .member true ∧ isHalted t 1 = false ∧
    isHalted (after .dmiReadDmcontrol t) 1 = true ∧
    isHalted (after .dmiReadDmcontrol (after (.clearHaltNotification 1) t)) 1 = false := by decide +kernel
/-- R251's example. -/
theorem test_action_executed :
    let t := after .actionExecuted (after (.storeExch 0x80 [0xEF#8, 0xBE#8, 0xAD#8, 0xDE#8]) (staged .x32))
    (after .dmiReadAbstractcs t).response = .word 0x00000008#32 ∧
    (after .dmiReadData0 t).response = .word 0xDEADBEEF#32 ∧ read32 t 0 = 0x0400006F#32 := by decide +kernel
/-- R252's example, and R254. -/
theorem test_action_faulted :
    (after .dmiReadAbstractcs (after .actionFaulted (staged .x32))).response = .word 0x00000308#32 ∧
    (after .actionFaulted (idle .x32)).cmderr = .none := by decide +kernel
/-- R332, R155: a second `power_on`, and a soft reset. -/
theorem test_resets :
    (after .powerOn (staged .x32)).busy = false ∧ read32 (after .powerOn (staged .x32)) 0 = 0x0400006F#32 ∧
    (after (.dmiWriteDmcontrol 0x80000000#32) (staged .x32)).busy = false ∧
    (after (.dmiWriteDmcontrol 0x80000000#32) (staged .x32)).interrupt = [] := by decide +kernel
/-- R195 to R198: the entry words of the examples. -/
theorem test_entry_words :
    read32 (after (.arWrite32 false false false 5#5) (halted0 .x32)) 0 = 0x18002283#32 ∧
    read32 (after (.arRead64 false false false 5#5) (halted0 .x64)) 0 = 0x18503023#32 ∧
    read32 (after (.arWrite64 false false true 5#5) (halted0 .x64)) 4 = 0x01C0006F#32 ∧
    read32 (after (.arExec 0#5 0#17) (halted0 .x32)) 0 = 0x0200006F#32 ∧
    read32 (after (.arExec 0#5 0#17) (halted0 .x32)) 4 = 0x00100073#32 := by decide +kernel
/-- R186, R199, R200: what the other register-access classes do on a halted and on a running hart. -/
theorem test_other_accesses :
    (after (.arNop 0#5 0#17) (halted0 .x32)).busy = false ∧ (after (.arNop 0#5 0#17) (idle .x32)).cmderr = .haltresume ∧
    (after (.arUnsup 0x2207B0#24) (halted0 .x32)).cmderr = .notsup ∧
    (after (.arUnsup 0x2207B0#24) (idle .x32)).cmderr = .haltresume ∧
    (after (.arRead64 false false false 5#5) (halted0 .x32)).cmderr = .notsup := by decide +kernel
/-- R201, R202: NOTSUP on a running hart, for `quick` and every `unknown` row. -/
theorem test_refused_classes :
    [Instr.quick 0#24, .unknown2_3 0#25, .unknown4_7 0#26, .unknown8_15 0#27, .unknown16_31 0#28, .unknown32_63 0#29,
     .unknown64_127 0#30, .unknown128_255 0#31].all (fun i => (after i (idle .x32)).cmderr = .notsup) = true := by
  decide +kernel
/-- R273, R190: the staged `sw` of hart 0 puts the low word of `x5` in `data0`. -/
theorem test_sw :
    let t := after (.sw 0x180#12 5#5 0#5) (staged .x64)
    read32 t 0x80 = 0xDEADBEEF#32 ∧ readPc t 0 = 0x104 ∧ t.response = .ok := by decide +kernel
/-- R274: `sd` also fills `data1`. -/
theorem test_sd : read32 (after (.sd 0x180#12 5#5 0#5) (staged .x64)) 0x84 = 0xFFFFFFFF#32 := by decide +kernel
/-- R275: `lw` sign-extends on a 64-bit hart and writes nothing to `x0`. -/
theorem test_lw :
    let s := after (.dmiWriteData0 0x80000001#32) (halted0 .x64)
    readX (after (.lw 0x180#12 0#5 6#5) s) 0 6#5 = 0xFFFFFFFF80000001#64 ∧
    readX (after (.lw 0x180#12 0#5 0#5) s) 0 0#5 = 0 := by decide +kernel
/-- R276: `x[r]` becomes `{data1, data0}`. -/
theorem test_ld :
    let s := after (.dmiWriteData1 2#32) (after (.dmiWriteData0 1#32) (halted0 .x64))
    readX (after (.ld 0x180#12 0#5 6#5) s) 0 6#5 = 0x200000001#64 := by decide +kernel
/-- R277, R251: the trap of the carrying hart completes the action. -/
theorem test_ebreak :
    (after .ebreak (staged .x32)).busy = false ∧ (after .ebreak (staged .x32)).cmderr = .none ∧
    (after .ebreak { staged .x32 with stepping := 1 }).busy = true := by decide +kernel
/-- R278, R280: the two jumps land at 0x120; a backward jump wraps within `XLEN`. -/
theorem test_jal :
    readPc (after (.jal 0x20#21) (staged .x32)) 0 = 0x120 ∧
    readPc (after (.jal 0x1FFEFC#21) (staged .x32)) 0 = 0xFFFFFFFC#64 := by decide +kernel
/-- R227, R252, R281: a staged store to a ROM region faults the action and leaves the hart at `EXC_ABS`. -/
theorem test_exception :
    let t := after (.sw 0x110#12 5#5 0#5) (staged .x32)
    t.cmderr = .exception ∧ t.busy = false ∧ readPc t 0 = 0x110 ∧ t.response = .fail := by decide +kernel

/-- R281 (c): a fault in program-buffer code goes to `EXC_ABS` after a soft reset dropped the action; the block sees nothing. -/
theorem test_exception_after_drop :
    let t := after (.sw 0x110#12 5#5 0#5) (inProgbuf (idle .x32))
    readPc t 1 = 0x110 ∧ t.cmderr = .none ∧ t.busy = false := by decide +kernel
/-- R12, R83, R272 with `DM_BASE = 0x740`: `EXCH_ABS = 0x7C0`; the released hart fetches `sw x5, 0x7C0(x0)`, the word that the
formula of R273 gives, at 0x740, and the store reaches `data0`. -/
theorem test_other_base :
    let t := after (.arRead32 false false false 5#5) (atTop (halted0 .x32))
    read32 t 0 = 0x7C502023#32 ∧ readPc t 0 = 0x740 ∧
    read32 (after (.sw 0x7C0#12 5#5 0#5) t) 0x80 = 0xDEADBEEF#32 := by decide +kernel

/-- R250 steps 2 and 3: a hart whose debug interrupt is raised fetches at `ENTRY_ABS` and has notified; another one does not. -/
theorem test_honour_interrupt :
    readPc (honourInterrupt 1 { idle .x32 with interrupt := [1] }) 1 = 0x100 ∧
    (honourInterrupt 1 { idle .x32 with interrupt := [1] }).haltNotification = [1] ∧
    (honourInterrupt 2 { idle .x32 with interrupt := [1] }).haltNotification = [] := by decide +kernel

/-! ## Witnesses: states and operands that meet the hypotheses of the statements -/

theorem witness_DecodeOfEncode : (Instr.storeExch 0x9F [1#8]).wf = true ∧ (Instr.jal 0x1FFFFE#21).wf = true := by decide
theorem witness_InstructionWordsKeepEveryBit : decodeHart 0xFFFFF06F#32 = some (.jal 0x1FFFFE#21) := by decide
/-- One word for each clause of the class table, at the ends of its range. -/
theorem witness_CommandClasses :
    (cmdtype 0x00221000#32 = 0 ∧ transfer 0x00221000#32 = true ∧ 0x1000 ≤ regno 0x00221000#32 ∧
      regno 0x00221000#32 ≤ 0x101F ∧ size 0x00221000#32 = 2) ∧
    (cmdtype 0x0033101F#32 = 0 ∧ transfer 0x0033101F#32 = true ∧ 0x1000 ≤ regno 0x0033101F#32 ∧
      regno 0x0033101F#32 ≤ 0x101F ∧ size 0x0033101F#32 = 3) ∧
    (transfer 0x00220FFF#32 = true ∧ regno 0x00220FFF#32 < 0x1000) ∧
    (transfer 0x00221020#32 = true ∧ 0x101F < regno 0x00221020#32) ∧
    (transfer 0x00421005#32 = true ∧ size 0x00421005#32 ≠ 2 ∧ size 0x00421005#32 ≠ 3) ∧
    (cmdtype 0x00040000#32 = 0 ∧ transfer 0x00040000#32 = false ∧ postexec 0x00040000#32 = true) ∧
    (transfer 0x00000000#32 = false ∧ postexec 0x00000000#32 = false) ∧
    cmdtype 0x01FFFFFF#32 = 1 ∧ cmdtype 0x03FFFFFF#32 = 3 ∧ cmdtype 0x04000000#32 = 4 ∧ cmdtype 0x0F000000#32 = 15 ∧
    cmdtype 0x10000000#32 = 16 ∧ cmdtype 0x20000000#32 = 32 ∧ cmdtype 0x7F000000#32 = 127 ∧ cmdtype 0x80000000#32 = 128 := by
  decide

/-- A state with one request pending. -/
def withRequest (r : Request) (s : State) : State := { s with pending := [r] }

theorem witness_StepRunsTheDecodedInstruction :
    (withRequest (.packet (.dmi true 0x10 5#32)) (idle .x32)).pending = .packet (.dmi true 0x10 5#32) :: [] ∧
    decode (.dmi true 0x10 5#32) = some (.dmiWriteDmcontrol 5#32) ∧
    (readPc (staged .x32) 0).toNat = dmBase (staged .x32).params + 0 ∧ Inside 0 4 ∧
    decode (.hart (read32 (staged .x32) 0)) = some (.sw 0x180#12 5#5 0#5) := by
  unfold Inside; decide +kernel
theorem witness_UnmappedDmiAccessFails : 0x0C ∉ mappedDmi ∧ 0x28 ∉ mappedDmi ∧ 0x104 ∉ mappedDmi := by decide
theorem witness_LoadServedExactlyInsideARegion :
    Inside 0x9C 4 ∧ Inside 0x0F 1 ∧ ¬Inside 0x9D 4 ∧ ¬Inside 0x0E 4 ∧ ¬Inside 0 0 ∧ ¬Inside 0x100 4 := by
  unfold Inside; decide
theorem witness_StoreServedExactlyInsideAWritableRegion :
    InsideWritable 0x20 0x20 ∧ InsideWritable 0x9F 1 ∧ ¬InsideWritable 0x3F 2 ∧ ¬InsideWritable 0x1F 1 ∧
      ¬InsideWritable 0x80 0 := by
  unfold InsideWritable; decide
theorem witness_EveryTransactionIsAnswered :
    (∀ tag h, Packet.load 0xFF 9 = .event tag h → tag.toNat ≤ 8) ∧ (∀ w, Packet.load 0xFF 9 ≠ .hart w) := by
  constructor <;> intros <;> simp_all
theorem witness_ReadDmcontrol : ConstantsHold (idle .x32) := by unfold ConstantsHold; decide
theorem witness_ReadAbstractcs : ConstantsHold (staged .x64) := by unfold ConstantsHold; decide +kernel
theorem witness_ReadDataSlots : (0, Instr.dmiReadData0) ∈ dataReads ∧ (7, Instr.dmiReadData7) ∈ dataReads := by decide
theorem witness_ReadProgramBufferWords :
    (0, Instr.dmiReadProgbuf0) ∈ progbufReads ∧ (7, Instr.dmiReadProgbuf7) ∈ progbufReads := by decide
theorem witness_WriteDmcontrol : (0x20000000#32).getLsbD 29 = true ∧ (0xF3FF0000#32).getLsbD 29 = true := by decide
theorem witness_SoftReset : (0x80000000#32).getLsbD 29 = false := by decide
theorem witness_WriteDataSlotWithoutReplay :
    (7, Instr.dmiWriteData7 5#32) ∈ dataWrites 5#32 ∧ (idle .x32).autoexec.getLsbD 7 = false ∧
    (0, Instr.dmiWriteData0 5#32) ∈ dataWrites 5#32 ∧ { idle .x32 with autoexec := 1#8 }.lastCommandValid = false := by
  decide
theorem witness_WriteDataSlotReplaysTheCommand :
    (7, Instr.dmiWriteData7 5#32) ∈ dataWrites 5#32 ∧
    { staged .x32 with autoexec := 0x80#8 }.autoexec.getLsbD 7 = true ∧
    { staged .x32 with autoexec := 0x80#8 }.lastCommandValid = true := by decide +kernel
theorem witness_WriteProgramBufferWords : (7, Instr.dmiWriteProgbuf7 5#32) ∈ progbufWrites 5#32 := by decide
/-- The hypotheses of the three statements about staging, of the one about `AR.NOP` and of the one about NOTSUP. -/
theorem witness_Access32Stages : EngineIdle (halted0 .x32) ∧ statusAfterSync (halted0 .x32) (selected (halted0 .x32)) = .halted := by
  unfold EngineIdle; decide +kernel
theorem witness_Access64Stages :
    EngineIdle (halted0 .x64) ∧ statusAfterSync (halted0 .x64) (selected (halted0 .x64)) = .halted ∧
      (halted0 .x64).params.xlen = .x64 := by unfold EngineIdle; decide +kernel
/-- A hart that has notified counts as halted although its table entry is still 0. -/
theorem witness_ExecuteStages :
    let s := { idle .x32 with haltNotification := [0] }
    EngineIdle s ∧ statusAfterSync s (selected s) = .halted := by unfold EngineIdle; decide +kernel
theorem witness_NopIsOnlyRecorded :
    EngineIdle (halted0 .x32) ∧ statusAfterSync (halted0 .x32) (selected (halted0 .x32)) = .halted := witness_Access32Stages
theorem witness_UnsupportedAccess :
    EngineIdle (halted0 .x32) ∧ statusAfterSync (halted0 .x32) (selected (halted0 .x32)) = .halted ∧
      (halted0 .x32).params.xlen = .x32 := by unfold EngineIdle; decide +kernel
theorem witness_QuickAndUnknownAreRefused :
    CarriesCommand (.quick 0#24) 0x01000000#32 ∧ CarriesCommand (.unknown128_255 0#31) 0x80000000#32 ∧
    cmdtype 0x01000000#32 ≠ 0 ∧ cmdtype 0x80000000#32 ≠ 0 ∧
    EngineIdle (idle .x32) ∧ hartExists (idle .x32) (selected (idle .x32)) = true := by
  unfold EngineIdle CarriesCommand; decide +kernel
theorem witness_CommandWhileBusy :
    CarriesCommand (.dmiWriteCommand 5#32) 5#32 ∧ CarriesCommand (.arNop 0#5 5#17) 5#32 ∧ (staged .x32).busy = true := by
  unfold CarriesCommand; decide +kernel
theorem witness_CommandWhileErrorStands :
    CarriesCommand (.quick 1#24) 0x01000001#32 ∧ { idle .x32 with cmderr := .busy }.busy = false ∧
      { idle .x32 with cmderr := .busy }.cmderr ≠ .none := by
  unfold CarriesCommand; decide +kernel
theorem witness_CommandToNoSuchHart :
    CarriesCommand (.arExec 0#5 0#17) 0x00040000#32 ∧ EngineIdle { idle .x32 with hartsel := 4#10 } ∧
      hartExists { idle .x32 with hartsel := 4#10 } (selected { idle .x32 with hartsel := 4#10 }) = false := by
  unfold CarriesCommand EngineIdle; decide +kernel
theorem witness_CommandToHartNotHalted :
    CarriesCommand (.arUnsup 0x0207B0#24) 0x000207B0#32 ∧ cmdtype 0x000207B0#32 = 0 ∧ EngineIdle (idle .x32) ∧
    statusAfterSync (idle .x32) (selected (idle .x32)) = .running ∧
    statusAfterSync { idle .x32 with unavailable := [0] } 0 = .unavailable := by
  unfold CarriesCommand EngineIdle; decide +kernel
theorem witness_LoadsReturnTheRegion :
    (0x80, 0x20, Instr.loadExch 0x9C 4) ∈ loadRows 0x9C 4 ∧ 0 < 4 ∧ 0x80 ≤ 0x9C ∧ 0x9C + 4 ≤ 0x80 + 0x20 := by decide
theorem witness_RomStoresAreRefused :
    Instr.storeCode 0x7C [0#8] ∈ [Instr.storeEntry 0x7C [0#8], .storeExc 0x7C [0#8], .storeCode 0x7C [0#8]] := by decide
theorem witness_StoresWriteTheirBytes :
    (0x20, Instr.storeProgbuf 0x3F [1#8]) ∈ storeRows 0x3F [1#8] ∧ 0x20 ≤ 0x3F ∧ 0x3F + [1#8].length ≤ 0x20 + 0x20 := by decide
theorem witness_ExchangeBufferRoundTrip : 0 < [1#8, 2#8].length ∧ 0x80 ≤ 0x9E ∧ 0x9E + [1#8, 2#8].length ≤ 0xA0 := by decide
theorem witness_TheTwoPortsSeeOneCopy :
    (7, Instr.dmiWriteProgbuf7 1#32) ∈ progbufWrites 1#32 ∧ (7, Instr.dmiWriteData7 1#32) ∈ dataWrites 1#32 ∧
      (7, Instr.dmiReadData7) ∈ dataReads ∧ (7, Instr.dmiReadProgbuf7) ∈ progbufReads := by decide
/-- The last id that is served and the first that is refused. -/
theorem witness_InterruptAccessors :
    (after (.setInterrupt 1023) (idle .x32)).interrupt = [1023] ∧ (after (.setInterrupt 1024) (idle .x32)).response = .fail := by
  decide +kernel
theorem witness_HaltNotificationAccessors :
    (after (.setHaltNotification 1023) (idle .x32)).haltNotification = [1023] ∧
    (after (.setHaltNotification 1024) (idle .x32)).response = .fail := by decide +kernel
theorem witness_ActionExecuted : (staged .x32).busy = true ∧ (idle .x32).busy = false := by decide +kernel
theorem witness_ActionFaulted : (staged .x64).busy = true ∧ (idle .x64).busy = false := by decide +kernel
theorem witness_HartStoresReachTheBus :
    effectiveAddress (staged .x64) (staged .x64).stepping 0#5 0x198#12 = dmBase (staged .x64).params + 0x98 ∧ InsideWritable 0x98 8 ∧
    InsideWritable 0x9C 4 ∧ effectiveAddress (staged .x32) 0 0#5 0x19C#12 = dmBase (staged .x32).params + 0x9C ∧
    (staged .x64).params.xlen = .x64 := by unfold InsideWritable; decide +kernel
theorem witness_HartLoadsReachTheBus :
    effectiveAddress (staged .x64) (staged .x64).stepping 0#5 0x100#12 = dmBase (staged .x64).params + 0 ∧ Inside 0 4 ∧ Inside 0 8 ∧
    (staged .x64).params.xlen = .x64 := by unfold Inside; decide +kernel
/-- Hart 0 carries the action; hart 1, which does not, is halted, stands in the program buffer, or is neither. -/
theorem witness_EbreakEndsTheSequence :
    Carries (staged .x32) (staged .x32).stepping ∧ ¬Carries (staged .x32) 1 ∧
    UnderDebugger (setHalted 1 true (staged .x32)) 1 ∧ UnderDebugger (inProgbuf (staged .x32)) 1 ∧
    ¬UnderDebugger (staged .x32) 1 := by
  rw [carries_iff, carries_iff]
  refine ⟨by decide +kernel, by decide +kernel, .inl (by decide +kernel), .inr ⟨0x20, by decide +kernel⟩, ?_⟩
  rintro (h | ⟨off, h, -⟩)
  · revert h; decide +kernel
  · have h0 : (readPc (staged .x32) 1).toNat = 0 := by decide +kernel
    have hb : dmBase (staged .x32).params = 0x100 := by decide +kernel
    omega
theorem witness_RefusedHartAccessFaults :
    effectiveAddress (staged .x64) (staged .x64).stepping 0#5 0x110#12 = dmBase (staged .x64).params + 0x10 ∧ ¬InsideWritable 0x10 4 ∧
    ¬InsideWritable 0x10 8 ∧ effectiveAddress (staged .x64) 0 0#5 0x19D#12 = dmBase (staged .x64).params + 0x9D ∧ ¬Inside 0x9D 4 ∧ ¬Inside 0x9D 8 := by
  unfold Inside InsideWritable; decide +kernel
theorem witness_RefusedHartAccessFaults_others :
    Carries (staged .x64) 0 ∧ ¬Carries (inProgbuf (staged .x64)) 1 ∧ InStagedCode (inProgbuf (staged .x64)) 1 := by
  rw [carries_iff, carries_iff, inStagedCode_iff]; decide +kernel
theorem witness_WideAccessOnNarrowHartFaults :
    (idle .x32).params.xlen = .x32 ∧ (staged .x32).params.xlen = .x32 ∧ Carries (staged .x32) (staged .x32).stepping ∧
    ¬Carries (inProgbuf (idle .x32)) 1 ∧ InStagedCode (inProgbuf (idle .x32)) 1 := by
  rw [carries_iff, carries_iff, inStagedCode_iff]; decide +kernel

theorem witness_ResetInvariant : SpecInvariant (idle .x32) where
  busyIffStaged := by unfold BusyIffStaged; decide
  entryAtTemplate := by unfold EntryAtTemplate; decide +kernel
  entryHoldsAction := fun h => by cases h
  busyErrorOnly := fun h => by cases h
  constantsHold := by unfold ConstantsHold; decide
  interruptBelow := by unfold IdsBelow; decide
  notificationBelow := by unfold IdsBelow; decide
  unrecordedIsZero := fun _ => rfl
theorem witness_EveryStepKeepsTheInvariants :
    SpecInvariant (idle .x32) ∧ step (idle .x32) = .next (idle .x32) := ⟨witness_ResetInvariant, rfl⟩
theorem witness_EveryStepKeepsTheCanonicalForm : CanonicalForm (staged .x32) where
  memory := by decide +kernel
  interrupt := by unfold IdsRise; decide +kernel
  notification := by unfold IdsRise; decide +kernel
  harts := by decide +kernel
theorem witness_RomRegionsAreConstant : CanonicalForm (staged .x32) := witness_EveryStepKeepsTheCanonicalForm
theorem witness_OnlyCompletionOrResetEndsAFlight :
    (staged .x32).busy = true ∧ (after .actionExecuted (staged .x32)).busy = false ∧
    (after .dmiReadData0 (staged .x32)).busy = true := by decide +kernel
theorem witness_HaltedIsSetOnlyBySync :
    isHalted { idle .x32 with haltNotification := [3] } 3 = false ∧
    isHalted (after .dmiReadDmcontrol { idle .x32 with haltNotification := [3] }) 3 = true := by decide +kernel
theorem witness_CommandErrorIsSticky :
    { staged .x32 with cmderr := .busy }.cmderr ≠ .none ∧ carriesAction (staged .x32) (staged .x32).stepping = true ∧
    (after (.sw 0x110#12 5#5 0#5) { staged .x32 with cmderr := .busy }).cmderr = .exception ∧
    (after (.dmiWriteData0 7#32) { staged .x32 with cmderr := .other, autoexec := 1#8 }).cmderr = .busy ∧
    (after .actionFaulted { staged .x32 with cmderr := .busy }).cmderr = .exception ∧
    (after (.dmiWriteAbstractcs 0x100#32) { staged .x32 with cmderr := .busy }).cmderr = .none := by decide +kernel
/-- A command for the halted hart 0 of a 64-bit system, whose program buffer is one `ebreak`, and that hart's steps. -/
def accessRequests (i : Instr) (steps : Nat) : State :=
  { write32 (halted0 .x64) 0x20 0x00100073#32 with pending := .packet (encode i) :: (List.replicate steps (.hartStep 0) ++ []) }
/-- What the hypotheses of the two statements ask of `accessRequests`, with and without `postexec`. -/
theorem accessRequests_meet (i : Instr) (steps : Nat) :
    let s := accessRequests i steps
    EngineIdle s ∧ selected s = 0 ∧ statusAfterSync s (selected s) = .halted ∧ s.params.xlen = .x64 ∧
      read32 s 0x20 = 0x00100073#32 := by
  have h : EngineIdle (accessRequests .powerOn 0) ∧ selected (accessRequests .powerOn 0) = 0 ∧
      statusAfterSync (accessRequests .powerOn 0) 0 = .halted ∧ (accessRequests .powerOn 0).params.xlen = .x64 ∧
      read32 (accessRequests .powerOn 0) 0x20 = 0x00100073#32 := by unfold EngineIdle; decide +kernel
  exact h
theorem witness_ReadRegisterThroughDataZero :
    let s := accessRequests (.arRead64 false false true 5#5) 3
    EngineIdle s ∧ selected s = 0 ∧ statusAfterSync s (selected s) = .halted ∧ s.params.xlen = .x64 ∧
      read32 s 0x20 = 0x00100073#32 := accessRequests_meet _ _
theorem witness_WriteRegisterThroughDataZero :
    let s := accessRequests (.arWrite32 false false false 5#5) 2
    EngineIdle s ∧ selected s = 0 ∧ statusAfterSync s (selected s) = .halted ∧ s.params.xlen = .x64 ∧
      read32 s 0x20 = 0x00100073#32 := accessRequests_meet _ _
theorem witness_LifeOfAHalt :
    (0xA0030000#32).getLsbD 29 = true ∧ (0xA0030000#32).getLsbD 31 = true ∧ (0xA0030000#32).getLsbD 30 = false ∧
    ((0xA0030000#32).extractLsb' 16 10).toNat = 3 ∧ statusAfterSync (idle .x32) 3 = .running ∧
    (0x30030000#32).getLsbD 29 = true ∧ (0x30030000#32).getLsbD 28 = true ∧ (0x30030000#32).getLsbD 30 = false ∧
    (0x30030000#32).extractLsb' 16 10 = (0xA0030000#32).extractLsb' 16 10 := by decide +kernel

end Sys2Proof.Tests
end

section
/-! SUPPORT. What an instruction can do, said once: one shape for each kind of transaction, so that a claim about every
instruction is a case per shape and no proof walks through the 78 arms of `exec` again. -/

namespace Sys2Proof.Machine

/-- R194 to R202: all that a class of the command word can do once its command is accepted: nothing, refuse it, or stage one
word or two. -/
def ActsAsClass (c : Word32) (act : Nat → State → State) : Prop :=
  ∀ h s, act h s = s ∨ act h s = setCmderr .notsup s ∨
    ∃ words, (words.length = 1 ∨ words.length = 2) ∧ act h s = stage words c h s

/-- The shapes of a transaction: what instruction `i` makes of state `s`. `row` ties a shape that several rows share to the
request of the row. -/
inductive Executes (s : State) : Instr → State → Prop
  | registerRead {i : Instr} (value : State → Word32) (a : Nat) (row : encode i = .dmi false a 0#32) :
      Executes s i (dmiRead value s)
  | slotWrite {i : Instr} (n : Nat) (v : Word32) (lt : n < 8) (row : encode i = .dmi true (0x04 + n) v) :
      Executes s i (writeSlot n v s)
  | progbufWrite {i : Instr} (n : Nat) (v : Word32) (lt : n < 8) (row : encode i = .dmi true (0x20 + n) v) :
      Executes s i (writeProgbufWord n v s)
  | dmcontrolWrite (v : Word32) : Executes s (.dmiWriteDmcontrol v) (dmiWrite (storeDmcontrol v) s)
  | abstractcsWrite (v : Word32) : Executes s (.dmiWriteAbstractcs v) (dmiWrite (storeAbstractcs v) s)
  | commandWrite (v : Word32) : Executes s (.dmiWriteCommand v) (dmiWrite (perform v) s)
  | command {i : Instr} (c : Word32) (needsHalt : Bool) (act : Nat → State → State) (class_act : ActsAsClass c act)
      (row : encode i = .command c) : Executes s i (dmiWrite (whenAccepted c needsHalt act) s)
  | load {i : Instr} (r : Region) (off len : Nat) (row : encode i = .load off len) :
      Executes s i (busLoadFrom r off len (clearPulses s))
  | store {i : Instr} (r : Region) (off : Nat) (bytes : List Byte) (row : encode i = .store off bytes) :
      Executes s i (busStoreTo r off bytes (clearPulses s))
  | setInterrupt (h : Nat) : Executes s (.setInterrupt h) (accessor h (addInterrupt h) s)
  | clearInterrupt (h : Nat) : Executes s (.clearInterrupt h) (accessor h (dropInterrupt h) s)
  | setHaltNotification (h : Nat) : Executes s (.setHaltNotification h) (accessor h (addNotification h) s)
  | clearHaltNotification (h : Nat) : Executes s (.clearHaltNotification h) (accessor h (dropNotification h) s)
  | getter {i : Instr} (h : Nat) (set : List Nat) (tag : BitVec 4) (row : encode i = .event tag h) :
      Executes s i (getter h set s)
  | actionExecuted : Executes s .actionExecuted (respond .none (completeExecuted (clearPulses s)))
  | actionFaulted : Executes s .actionFaulted (respond .none (completeFaulted (clearPulses s)))
  | powerOn : Executes s .powerOn (respond .none (drawExchange (moduleReset (clearPulses s))))
  | hartStore {i : Instr} (a : Nat) (bs : List Byte) (w : Word32) (row : encode i = .hart w) :
      Executes s i (hartStore s.stepping a bs (clearPulses s))
  | hartLoad {i : Instr} (a n : Nat) (extend : XWord → XWord) (rd : BitVec 5) (w : Word32) (row : encode i = .hart w) :
      Executes s i (hartLoad s.stepping a n extend rd (clearPulses s))
  | hartException {i : Instr} (w : Word32) (row : encode i = .hart w) :
      Executes s i (takeException s.stepping (respond .none (clearPulses s)))
  | ebreak : Executes s .ebreak (respond .none (trapToDebugRom s.stepping (clearPulses s)))
  | jal (imm : BitVec 21) : Executes s (.jal imm) (respond .none (jumpBy s.stepping imm (clearPulses s)))

/-! ## The classes of the command word -/

theorem actsAsClass_stage (words : List Word32) (c : Word32) (h : words.length = 1 ∨ words.length = 2) :
    ActsAsClass c (stage words c) :=
  fun _ _ => .inr (.inr ⟨words, h, rfl⟩)

theorem actsAsClass_nop (c : Word32) : ActsAsClass c (fun _ s => s) :=
  fun _ _ => .inl rfl

theorem actsAsClass_notsup (c : Word32) : ActsAsClass c (fun _ s => setCmderr .notsup s) :=
  fun _ _ => .inr (.inl rfl)

theorem executes_access32 (s : State) (i : Instr) (word c : Word32) (postexec : Bool) (row : encode i = .command c) :
    Executes s i (dmiWrite (access32 word c postexec) s) :=
  .command c true _ (actsAsClass_stage [word, afterAccess postexec] c (.inr rfl)) row

theorem executes_access64 (s : State) (i : Instr) (word c : Word32) (postexec : Bool) (row : encode i = .command c) :
    Executes s i (dmiWrite (access64 word c postexec) s) := by
  refine .command c true _ (fun h t => ?_) row
  cases t.params.xlen
  · exact .inr (.inl rfl)
  · exact .inr (.inr ⟨_, .inr rfl, rfl⟩)

theorem executes_unsupported (s : State) (i : Instr) (c : Word32) (needsHalt : Bool) (row : encode i = .command c) :
    Executes s i (dmiWrite (unsupported c needsHalt) s) :=
  .command c needsHalt _ (actsAsClass_notsup c) row

/-! ## Every instruction -/

/-- R274, R276: a doubleword access is the access, or an exception of the hart where `XLEN = 32`. -/
theorem executes_onXlen64 (s : State) (i : Instr) (act : State → State) (w : Word32) (row : encode i = .hart w)
    (h : Executes s i (act (clearPulses s))) : Executes s i (onXlen64 act (clearPulses s)) := by
  unfold onXlen64
  split
  · exact h
  · exact .hartException w row

/-- R17: every instruction answers, in every state, and what it answers has the shape of its row. -/
theorem exec_executes (i : Instr) (s : State) : ∃ t, exec i s = .next t ∧ Executes s i t :=
  match i with
  | .dmiReadData0 | .dmiReadData1 | .dmiReadData2 | .dmiReadData3 | .dmiReadData4 | .dmiReadData5 | .dmiReadData6
  | .dmiReadData7 | .dmiReadDmcontrol | .dmiReadAbstractcs | .dmiReadCommand | .dmiReadProgbuf0 | .dmiReadProgbuf1
  | .dmiReadProgbuf2 | .dmiReadProgbuf3 | .dmiReadProgbuf4 | .dmiReadProgbuf5 | .dmiReadProgbuf6 | .dmiReadProgbuf7 =>
    ⟨_, rfl, .registerRead _ _ rfl⟩
  | .dmiWriteData0 v | .dmiWriteData1 v | .dmiWriteData2 v | .dmiWriteData3 v | .dmiWriteData4 v | .dmiWriteData5 v
  | .dmiWriteData6 v | .dmiWriteData7 v => ⟨_, rfl, .slotWrite _ v (by decide) rfl⟩
  | .dmiWriteProgbuf0 v | .dmiWriteProgbuf1 v | .dmiWriteProgbuf2 v | .dmiWriteProgbuf3 v | .dmiWriteProgbuf4 v
  | .dmiWriteProgbuf5 v | .dmiWriteProgbuf6 v | .dmiWriteProgbuf7 v => ⟨_, rfl, .progbufWrite _ v (by decide) rfl⟩
  | .dmiWriteDmcontrol v => ⟨_, rfl, .dmcontrolWrite v⟩
  | .dmiWriteAbstractcs v => ⟨_, rfl, .abstractcsWrite v⟩
  | .dmiWriteCommand v => ⟨_, rfl, .commandWrite v⟩
  | .arRead32 .. | .arWrite32 .. => ⟨_, rfl, executes_access32 _ _ _ _ _ rfl⟩
  | .arRead64 .. | .arWrite64 .. => ⟨_, rfl, executes_access64 _ _ _ _ _ rfl⟩
  | .arExec .. => ⟨_, rfl, .command _ true _ (actsAsClass_stage [jumpFromFirst] _ (.inl rfl)) rfl⟩
  | .arNop .. => ⟨_, rfl, .command _ true _ (actsAsClass_nop _) rfl⟩
  | .arUnsup _ | .quick _ | .unknown2_3 _ | .unknown4_7 _ | .unknown8_15 _ | .unknown16_31 _ | .unknown32_63 _
  | .unknown64_127 _ | .unknown128_255 _ => ⟨_, rfl, executes_unsupported _ _ _ _ rfl⟩
  | .loadEntry off len | .loadExc off len | .loadProgbuf off len | .loadCode off len | .loadExch off len =>
    ⟨_, rfl, .load _ off len rfl⟩
  | .storeEntry off bytes | .storeExc off bytes | .storeProgbuf off bytes | .storeCode off bytes
  | .storeExch off bytes => ⟨_, rfl, .store _ off bytes rfl⟩
  | .setInterrupt h => ⟨_, rfl, .setInterrupt h⟩
  | .clearInterrupt h => ⟨_, rfl, .clearInterrupt h⟩
  | .setHaltNotification h => ⟨_, rfl, .setHaltNotification h⟩
  | .clearHaltNotification h => ⟨_, rfl, .clearHaltNotification h⟩
  | .getInterrupt h | .getHaltNotification h => ⟨_, rfl, .getter h _ _ rfl⟩
  | .actionExecuted => ⟨_, rfl, .actionExecuted⟩
  | .actionFaulted => ⟨_, rfl, .actionFaulted⟩
  | .powerOn => ⟨_, rfl, .powerOn⟩
  | .sw .. => ⟨_, rfl, .hartStore _ _ _ rfl⟩
  | .sd .. => ⟨_, rfl, executes_onXlen64 _ _ _ _ rfl (.hartStore _ _ _ rfl)⟩
  | .lw .. => ⟨_, rfl, .hartLoad _ _ _ _ _ rfl⟩
  | .ld .. => ⟨_, rfl, executes_onXlen64 _ _ _ _ rfl (.hartLoad _ _ _ _ _ rfl)⟩
  | .ebreak => ⟨_, rfl, .ebreak⟩
  | .jal imm => ⟨_, rfl, .jal imm⟩

/-- Everything an instruction can do. -/
theorem executes_of_exec {i : Instr} {s t : State} (h : exec i s = .next t) : Executes s i t := by
  obtain ⟨u, hu, hs⟩ := exec_executes i s
  rw [hu] at h
  cases h
  exact hs

end Sys2Proof.Machine
end

section
/-! SUPPORT. What a request becomes: the packet's instruction, or the answer to a packet that is none. -/

namespace Sys2Proof.Machine

theorem runPacket_of_decode {p : Packet} {i : Instr} (h : decode p = some i) (s : State) :
    runPacket p s = exec i s := by
  simp only [runPacket, h]

theorem runPacket_of_not_decoded {p : Packet} (h : decode p = none) (s : State) :
    runPacket p s = rejectPacket p s := by
  simp only [runPacket, h]

theorem step_of_packet {s : State} {p : Packet} {rest : List Request} (h : s.pending = .packet p :: rest) :
    step s = runPacket p { s with pending := rest } := by
  simp only [step, h]

theorem step_of_hartStep {s : State} {h : Nat} {rest : List Request} (hp : s.pending = .hartStep h :: rest) :
    step s = runHart h { s with pending := rest } := by
  simp only [step, hp]

/-- R258, R87: a hart whose pc stands at offset `off` of the module, inside a region, fetches the word at that offset. -/
theorem hartFetch_of_inside {s : State} {h off : Nat} (hpc : (readPc s h).toNat = dmBase s.params + off)
    (hin : Inside off 4) : hartFetch s h = .word (read32 s off) := by
  have hserved : (regionOf off 4).isSome = true := (inside_iff off 4).1 hin
  have hmod : inModule s.params (dmBase s.params + off) = true := by
    obtain ⟨r, hr⟩ := Option.isSome_iff_exists.1 hserved
    have hbound := regionOf_some_bound off 4 r hr
    simp only [inModule, Config.busSize, Bool.and_eq_true, decide_eq_true_eq]
    omega
  simp only [hartFetch, hpc, hmod, Nat.add_sub_cancel_left, hserved, if_true]

/-- R112: every event tag up to 8 names an operation. -/
theorem decodeEvent_of_le {tag : BitVec 4} (h : tag.toNat ≤ 8) (hart : Nat) : ∃ i, decodeEvent tag hart = some i := by
  unfold decodeEvent
  generalize tag.toNat = n at h
  interval_cases n <;> exact ⟨_, rfl⟩

/-- Everything a packet that is no row of the table can do (R153, R234, R347). -/
theorem rejectPacket_cases {p : Packet} {s t : State} (hd : decode p = none) (h : rejectPacket p s = .next t) :
    t = dmiFail s ∨ t = respond .fail (clearPulses s) ∨
      t = takeException s.stepping (respond .none (clearPulses s)) := by
  cases p with
  | dmi write a v => cases h; exact .inl rfl
  | command c => cases hd
  | load off len => cases h; exact .inr (.inl rfl)
  | store off bytes => cases h; exact .inr (.inl rfl)
  | event tag hart => cases h
  | hart w =>
    simp only [rejectPacket] at h
    split at h
    · cases h; exact .inr (.inr rfl)
    · cases h

/-- R17, R293: a packet of a port answers when its event tag, if it has one, names an operation. -/
theorem runPacket_answers {p : Packet} (htag : ∀ tag h, p = .event tag h → tag.toNat ≤ 8) (hport : ∀ w, p ≠ .hart w)
    (s : State) : ∃ t, runPacket p s = .next t := by
  cases hd : decode p with
  | some i =>
    obtain ⟨t, ht, -⟩ := exec_executes i s
    exact ⟨t, (runPacket_of_decode hd s).trans ht⟩
  | none =>
    rw [runPacket_of_not_decoded hd]
    cases p with
    | dmi write a v => exact ⟨_, rfl⟩
    | command c => exact ⟨_, rfl⟩
    | load off len => exact ⟨_, rfl⟩
    | store off bytes => exact ⟨_, rfl⟩
    | event tag hart =>
      obtain ⟨i, hi⟩ := decodeEvent_of_le (htag tag hart rfl) hart
      exact absurd (hd.symm.trans hi) (by simp)
    | hart w => exact absurd rfl (hport w)

end Sys2Proof.Machine
end

section
/-! SUPPORT. What no operation breaks: the canonical form of log 15, the parameters, and the requests that wait. One lemma
per operation, from the field updates up to `step`. -/

namespace Sys2Proof.Machine

/-- Log 15: the offsets whose bytes are state, in order. -/
theorem listable_iff (a : Nat) :
    listable a = true ↔ a < 0x10 ∨ (0x20 ≤ a ∧ a < 0x40) ∨ (0x80 ≤ a ∧ a < 0xA0) := by
  simp [listable, or_assoc]

/-- The canonical form looks at no field but these. -/
theorem CanonicalForm.congr {s t : State} (params : t.params = s.params) (exchInit : t.exchInit = s.exchInit)
    (mem : t.mem = s.mem) (interrupt : t.interrupt = s.interrupt) (notification : t.haltNotification = s.haltNotification)
    (harts : t.harts = s.harts) (c : CanonicalForm s) : CanonicalForm t where
  memory := by rw [mem, Memory.wf_congr s t params exchInit]; exact c.memory
  interrupt := interrupt ▸ c.interrupt
  notification := notification ▸ c.notification
  harts := harts ▸ c.harts

/-- An operation from `s` to `t` keeps the parameters, the pending requests and the canonical form. -/
structure Keeps (s t : State) : Prop where
  params : t.params = s.params
  pending : t.pending = s.pending
  form : CanonicalForm s → CanonicalForm t

namespace Keeps

theorem refl (s : State) : Keeps s s := ⟨rfl, rfl, id⟩

theorem trans {s t u : State} (h : Keeps s t) (k : Keeps t u) : Keeps s u :=
  ⟨k.params.trans h.params, k.pending.trans h.pending, fun c => k.form (h.form c)⟩

/-- An update of fields that the canonical form does not look at. -/
theorem of_same {s t : State} (params : t.params = s.params) (pending : t.pending = s.pending)
    (exchInit : t.exchInit = s.exchInit) (mem : t.mem = s.mem) (interrupt : t.interrupt = s.interrupt)
    (notification : t.haltNotification = s.haltNotification) (harts : t.harts = s.harts) : Keeps s t :=
  ⟨params, pending, CanonicalForm.congr params exchInit mem interrupt notification harts⟩

/-- An update of the memory alone. -/
theorem of_mem {s t : State} (params : t.params = s.params) (pending : t.pending = s.pending)
    (mem : Memory.wf s s.mem = true → Memory.wf t t.mem = true) (interrupt : t.interrupt = s.interrupt)
    (notification : t.haltNotification = s.haltNotification) (harts : t.harts = s.harts) : Keeps s t where
  params := params
  pending := pending
  form c :=
    { memory := mem c.memory
      interrupt := interrupt ▸ c.interrupt
      notification := notification ▸ c.notification
      harts := harts ▸ c.harts }

variable (s : State)

/-! ## Field updates -/

theorem respond (r : Response) : Keeps s (respond r s) := of_same rfl rfl rfl rfl rfl rfl rfl

theorem clearPulses : Keeps s (clearPulses s) := of_same rfl rfl rfl rfl rfl rfl rfl

theorem emit (p : Pulse) : Keeps s (emit p s) := of_same rfl rfl rfl rfl rfl rfl rfl

theorem setCmderr (e : CmdErr) : Keeps s (setCmderr e s) := of_same rfl rfl rfl rfl rfl rfl rfl

theorem setHalted (h : Nat) (b : Bool) : Keeps s (setHalted h b s) := of_same rfl rfl rfl rfl rfl rfl rfl

theorem recordCommand (c : Word32) : Keeps s (recordCommand c s) := of_same rfl rfl rfl rfl rfl rfl rfl

theorem selectHart (v : Word32) : Keeps s (selectHart v s) := of_same rfl rfl rfl rfl rfl rfl rfl

/-- The model's counter of free values is no part of the form. -/
theorem drawFree : Keeps s { s with freeCount := s.freeCount + 1 } := of_same rfl rfl rfl rfl rfl rfl rfl

/-! ## The sets of hart ids -/

theorem addInterrupt (h : Nat) : Keeps s (addInterrupt h s) where
  params := rfl
  pending := rfl
  form c := { c with interrupt := idsRise_insertId _ h c.interrupt }

theorem dropInterrupt (h : Nat) : Keeps s (dropInterrupt h s) where
  params := rfl
  pending := rfl
  form c := { c with interrupt := idsRise_removeId _ h c.interrupt }

theorem addNotification (h : Nat) : Keeps s (addNotification h s) where
  params := rfl
  pending := rfl
  form c := { c with notification := idsRise_insertId _ h c.notification }

theorem dropNotification (h : Nat) : Keeps s (dropNotification h s) where
  params := rfl
  pending := rfl
  form c := { c with notification := idsRise_removeId _ h c.notification }

theorem sync : Keeps s (sync s) where
  params := rfl
  pending := rfl
  form c := { c with
    interrupt := idsRise_foldInterrupt s _ _ c.interrupt
    notification := List.Pairwise.nil }

/-! ## The memory -/

theorem writeBytes (off : Nat) (bs : List Byte) (hoff : ∀ i, i < bs.length → listable (off + i) = true) :
    Keeps s (writeBytes s off bs) :=
  of_mem rfl rfl (writeBytes_wf s off bs hoff) rfl rfl rfl

theorem write32 (off : Nat) (v : Word32) (hoff : ∀ i, i < 4 → listable (off + i) = true) :
    Keeps s (write32 s off v) :=
  writeBytes s off _ (by rwa [littleEndian_length])

/-- R192: at most four words fit the entry region. -/
theorem writeEntry (words : List Word32) (hlen : words.length ≤ 4) : Keeps s (writeEntry words s) :=
  writeBytes s 0 _ fun i hi => (listable_iff _).2 (.inl (by rw [words_length] at hi; omega))

theorem restoreEntry : Keeps s (restoreEntry s) := of_mem rfl rfl (restoreEntry_wf s) rfl rfl rfl

theorem drawExchange : Keeps s (drawExchange s) := of_mem rfl rfl (drawExchange_wf s) rfl rfl rfl

/-- R330: the buffers go back to a form that lists fewer bytes, and the two sets are emptied. -/
theorem moduleReset : Keeps s (moduleReset s) where
  params := rfl
  pending := rfl
  form c :=
    { memory := moduleReset_wf s c.memory
      interrupt := List.Pairwise.nil
      notification := List.Pairwise.nil
      harts := c.harts }

/-! ## The harts' contexts -/

theorem setContext (h : Nat) (k : HartContext) : Keeps s (setContext h k s) where
  params := rfl
  pending := rfl
  form c := { c with harts := keysRise_putKey _ h k c.harts }

theorem setPc (h : Nat) (a : XWord) : Keeps s (setPc h a s) := setContext s h _

theorem advancePc (h : Nat) : Keeps s (advancePc h s) := setPc s h _

theorem writeX (h : Nat) (r : BitVec 5) (v : XWord) : Keeps s (writeX h r v s) := by
  unfold Machine.writeX
  split
  · exact refl s
  · exact setContext s h _

theorem losePc (h : Nat) : Keeps s (losePc h s) := (drawFree s).trans (setPc _ h _)

theorem returnToRom (h : Nat) : Keeps s (returnToRom h s) := (drawFree s).trans (setPc _ h _)

/-! ## The command engine -/

theorem stage (words : List Word32) (c : Word32) (h : Nat) (hlen : words.length = 1 ∨ words.length = 2) :
    Keeps s (stage words c h s) := by
  have hentry : Keeps s (Machine.writeEntry words s) := writeEntry s words (by omega)
  have haction : Keeps (Machine.writeEntry words s)
      { Machine.writeEntry words s with
        nextAction := some { words := words, hart := h, command := c }
        actionExecuted := false
        busy := true } := of_same rfl rfl rfl rfl rfl rfl rfl
  exact hentry.trans (haction.trans ((emit _ (.release h)).trans (setPc _ h _)))

theorem perform (c : Word32) : Keeps s (perform c s) := by
  rcases perform_cases c s with ⟨-, h⟩ | ⟨-, -, h⟩ | ⟨-, -, e, -, h⟩ | ⟨-, -, h⟩ | ⟨-, -, -, h⟩ <;> rw [h]
  · exact setCmderr s _
  · exact refl s
  · exact (recordCommand s c).trans (setCmderr _ e)
  · exact recordCommand s c
  · exact (recordCommand s c).trans (stage _ _ c _ (compose_length _ c))

theorem classAct {c : Word32} {act : Nat → State → State} (hact : ActsAsClass c act) (h : Nat) : Keeps s (act h s) := by
  rcases hact h s with e | e | ⟨words, hlen, e⟩ <;> rw [e]
  · exact refl s
  · exact setCmderr s _
  · exact stage s words c h hlen

theorem whenAccepted (c : Word32) (needsHalt : Bool) {act : Nat → State → State} (hact : ActsAsClass c act) :
    Keeps s (whenAccepted c needsHalt act s) := by
  rcases whenAccepted_cases c needsHalt act s with
    ⟨-, h⟩ | ⟨-, -, h⟩ | ⟨-, -, -, h⟩ | ⟨-, -, -, -, h⟩ | ⟨-, -, -, -, h⟩ <;> rw [h]
  · exact setCmderr s _
  · exact refl s
  · exact (recordCommand s c).trans (setCmderr _ _)
  · exact (recordCommand s c).trans (setCmderr _ _)
  · exact (recordCommand s c).trans (classAct _ hact _)

theorem completeExecuted : Keeps s (completeExecuted s) := by
  rcases completeExecuted_cases s with ⟨-, h⟩ | ⟨-, h⟩ <;> rw [h]
  · exact (restoreEntry s).trans (of_same rfl rfl rfl rfl rfl rfl rfl)
  · exact refl s

theorem completeFaulted : Keeps s (completeFaulted s) := by
  rcases completeFaulted_cases s with ⟨-, h⟩ | ⟨-, h⟩ <;> rw [h]
  · exact (restoreEntry s).trans (of_same rfl rfl rfl rfl rfl rfl rfl)
  · exact refl s

/-! ## DMI register operations -/

theorem dmiRead (value : State → Word32) : Keeps s (dmiRead value s) :=
  (clearPulses s).trans ((sync _).trans (respond _ _))

theorem dmiWrite {effect : State → State} (h : ∀ s, Keeps s (effect s)) : Keeps s (dmiWrite effect s) :=
  (clearPulses s).trans ((sync _).trans ((h _).trans (respond _ _)))

theorem dmiFail : Keeps s (dmiFail s) :=
  (clearPulses s).trans ((sync _).trans (respond _ _))

/-- R46: slot `n` lies in the exchange buffer. -/
theorem storeSlot (n : Nat) (v : Word32) (hn : n < 8) : Keeps s (storeSlot n v s) := by
  have hstore : Keeps s (Machine.write32 s (dataOffset n) v) :=
    write32 s _ v fun i hi => (listable_iff _).2 (.inr (.inr (by simp only [dataOffset, Config.exchOff]; omega)))
  unfold Machine.storeSlot
  simp only
  split
  · exact hstore.trans (perform _ _)
  · exact hstore

/-- R47: word `n` lies in the program buffer. -/
theorem writeProgbuf (n : Nat) (v : Word32) (hn : n < 8) : Keeps s (Machine.write32 s (progbufOffset n) v) :=
  write32 s _ v fun i hi => (listable_iff _).2 (.inr (.inl (by simp only [progbufOffset, Config.progbufOff]; omega)))

theorem hartResetRequest (h : Nat) : Keeps s (hartResetRequest h s) := by
  unfold Machine.hartResetRequest
  split
  · exact (emit s _).trans ((setHalted _ h false).trans ((dropInterrupt _ h).trans (dropNotification _ h)))
  · exact refl s

theorem haltRequest (h : Nat) (st : HartStatus) : Keeps s (haltRequest h st s) := by
  unfold Machine.haltRequest
  split
  · exact addInterrupt s h
  · exact refl s

theorem resumeRequest (h : Nat) (st : HartStatus) : Keeps s (resumeRequest h st s) := by
  unfold Machine.resumeRequest
  split
  · exact (setHalted s h false).trans (emit _ _)
  · exact refl s

theorem haltOrResume (v : Word32) (h : Nat) : Keeps s (haltOrResume v h s) := by
  unfold Machine.haltOrResume
  simp only
  have hhalt : Keeps s (if haltreqBit v then Machine.haltRequest h (hartStatus s h) s else s) := by
    split
    · exact haltRequest s h _
    · exact refl s
  split
  · exact hhalt.trans (resumeRequest _ h _)
  · exact hhalt

theorem storeDmcontrol (v : Word32) : Keeps s (storeDmcontrol v s) := by
  unfold Machine.storeDmcontrol
  simp only
  split
  · refine (selectHart s v).trans (trans ?_ (haltOrResume _ v _))
    split
    · exact hartResetRequest _ _
    · exact refl _
  · exact moduleReset s

theorem storeAbstractcs (v : Word32) : Keeps s (storeAbstractcs v s) := of_same rfl rfl rfl rfl rfl rfl rfl

/-! ## BUS and EVT operations -/

theorem busLoadFrom (r : Region) (off len : Nat) : Keeps s (busLoadFrom r off len s) := by
  rcases busLoadFrom_cases r off len s with ⟨-, h⟩ | ⟨-, h⟩ <;> rw [h] <;> exact respond s _

theorem busStoreTo (r : Region) (off : Nat) (bs : List Byte) : Keeps s (busStoreTo r off bs s) := by
  rcases busStoreTo_cases r off bs s with ⟨hr, hw, h⟩ | ⟨-, h⟩ <;> rw [h]
  · exact (writeBytes s off bs (listable_of_writable off _ r hr hw)).trans (respond _ _)
  · exact respond s _

theorem accessor (h : Nat) {effect : State → State} (he : ∀ s, Keeps s (effect s)) : Keeps s (accessor h effect s) := by
  unfold Machine.accessor
  split
  · exact (clearPulses s).trans ((he _).trans (respond _ _))
  · exact (clearPulses s).trans (respond _ _)

theorem getter (h : Nat) (set : List Nat) : Keeps s (getter h set s) := (clearPulses s).trans (respond _ _)

/-! ## What a hart does -/

theorem takeException (h : Nat) : Keeps s (takeException h s) := by
  rcases takeException_cases h s with ⟨-, e⟩ | ⟨-, -, e⟩ | ⟨-, -, e⟩ <;> rw [e]
  · exact (completeFaulted s).trans (setPc _ h _)
  · exact setPc s h _
  · exact losePc s h

theorem trapToDebugRom (h : Nat) : Keeps s (trapToDebugRom h s) := by
  rcases trapToDebugRom_cases h s with ⟨-, e⟩ | ⟨-, -, e⟩ | ⟨-, -, e⟩ <;> rw [e]
  · exact (completeExecuted s).trans (returnToRom _ h)
  · exact returnToRom s h
  · exact losePc s h

/-- Log 9: what an access outside the module leaves of the block. -/
theorem platformAccess : Keeps s { Machine.respond .none s with freeCount := s.freeCount + 1 } :=
  of_same rfl rfl rfl rfl rfl rfl rfl

theorem hartStore (h a : Nat) (bs : List Byte) : Keeps s (hartStore h a bs s) := by
  rcases hartStore_cases h a bs s with ⟨-, hs, e⟩ | ⟨-, -, e⟩ | ⟨-, e | e⟩ <;> rw [e]
  · exact (writeBytes s _ bs (listable_of_storeServed _ _ hs)).trans ((respond _ _).trans (advancePc _ h))
  · exact (respond s _).trans (takeException _ h)
  · exact (platformAccess s).trans (advancePc _ h)
  · exact (platformAccess s).trans (takeException _ h)

theorem hartLoad (h a n : Nat) (extend : XWord → XWord) (rd : BitVec 5) : Keeps s (hartLoad h a n extend rd s) := by
  rcases hartLoad_cases h a n extend rd s with ⟨-, -, e⟩ | ⟨-, -, e⟩ | ⟨-, e | e⟩ <;> rw [e]
  · exact (respond s _).trans ((writeX _ h rd _).trans (advancePc _ h))
  · exact (respond s _).trans (takeException _ h)
  · exact (platformAccess s).trans ((writeX _ h rd _).trans (advancePc _ h))
  · exact (platformAccess s).trans (takeException _ h)

theorem honourInterrupt (h : Nat) : Keeps s (honourInterrupt h s) := by
  unfold Machine.honourInterrupt
  split
  · exact (clearPulses s).trans ((respond _ _).trans ((setPc _ h _).trans (addNotification _ h)))
  · exact (clearPulses s).trans (respond _ _)

end Keeps

/-! ## Every instruction and every step -/

theorem Executes.keeps {s t : State} {i : Instr} (h : Executes s i t) : Keeps s t := by
  have hclear : Keeps s (clearPulses s) := Keeps.clearPulses s
  cases h with
  | registerRead value a row => exact .dmiRead s value
  | slotWrite n v lt row => exact .dmiWrite s fun t => .storeSlot t n v lt
  | progbufWrite n v lt row => exact .dmiWrite s fun t => .writeProgbuf t n v lt
  | dmcontrolWrite v => exact .dmiWrite s fun t => .storeDmcontrol t v
  | abstractcsWrite v => exact .dmiWrite s fun t => .storeAbstractcs t v
  | commandWrite v => exact .dmiWrite s fun t => .perform t v
  | command c needsHalt act class_act row => exact .dmiWrite s fun t => .whenAccepted t c needsHalt class_act
  | load r off len row => exact hclear.trans (.busLoadFrom _ r off len)
  | store r off bytes row => exact hclear.trans (.busStoreTo _ r off bytes)
  | setInterrupt h => exact .accessor s h fun t => .addInterrupt t h
  | clearInterrupt h => exact .accessor s h fun t => .dropInterrupt t h
  | setHaltNotification h => exact .accessor s h fun t => .addNotification t h
  | clearHaltNotification h => exact .accessor s h fun t => .dropNotification t h
  | getter h set tag row => exact .getter s h set
  | actionExecuted => exact hclear.trans ((Keeps.completeExecuted _).trans (.respond _ _))
  | actionFaulted => exact hclear.trans ((Keeps.completeFaulted _).trans (.respond _ _))
  | powerOn => exact hclear.trans ((Keeps.moduleReset _).trans ((Keeps.drawExchange _).trans (.respond _ _)))
  | hartStore a bs w row => exact hclear.trans (.hartStore _ _ a bs)
  | hartLoad a n extend rd w row => exact hclear.trans (.hartLoad _ _ a n extend rd)
  | hartException w row => exact hclear.trans ((Keeps.respond _ _).trans (.takeException _ _))
  | ebreak => exact hclear.trans ((Keeps.trapToDebugRom _ _).trans (.respond _ _))
  | jal imm => exact hclear.trans ((Keeps.setPc _ _ _).trans (.respond _ _))

theorem runPacket_keeps {p : Packet} {s t : State} (h : runPacket p s = .next t) : Keeps s t := by
  cases hd : decode p with
  | some i => exact (executes_of_exec ((runPacket_of_decode hd s).symm.trans h)).keeps
  | none =>
    rw [runPacket_of_not_decoded hd] at h
    rcases rejectPacket_cases hd h with rfl | rfl | rfl
    · exact .dmiFail s
    · exact (Keeps.clearPulses s).trans (.respond _ _)
    · exact (Keeps.clearPulses s).trans ((Keeps.respond _ _).trans (.takeException _ _))

theorem runHart_keeps {h : Nat} {s t : State} (hr : runHart h s = .next t) : Keeps s t := by
  have hstepping : Keeps s { s with stepping := h } := .of_same rfl rfl rfl rfl rfl rfl rfl
  unfold runHart at hr
  split at hr
  · exact hstepping.trans (runPacket_keeps hr)
  · cases hr
    exact (Keeps.clearPulses s).trans ((Keeps.respond _ _).trans (.takeException _ h))
  · cases hr

/-- Every step takes the oldest request from the queue and then keeps what the operations keep (R9, R10). -/
theorem step_keeps {s t : State} (h : step s = .next t) : Keeps { s with pending := s.pending.tail } t := by
  unfold step at h
  split at h
  next hp => cases h; exact .of_same rfl (by simp [hp]) rfl rfl rfl rfl rfl
  next p rest hp => rw [hp]; exact runPacket_keeps h
  next k rest hp => rw [hp]; exact runHart_keeps h
  next k rest hp => rw [hp]; cases h; exact .honourInterrupt _ k
  next hs rest hp => rw [hp]; cases h; exact .of_same rfl rfl rfl rfl rfl rfl rfl
  next k c rest hp => rw [hp]; cases h; exact .setContext _ k c

theorem canonicalForm_reset : CanonicalForm State.reset where
  memory := rfl
  interrupt := List.Pairwise.nil
  notification := List.Pairwise.nil
  harts := rfl

end Sys2Proof.Machine
end

section
/-! The statements of 00_scope.md, settled. -/

namespace Sys2Proof.Machine

/-- Settles O52: the operations keep the form one by one (`Keeps`), and a step is one of them on the state with its request
taken. -/
theorem everyStepKeepsTheCanonicalForm : Obligations.EveryStepKeepsTheCanonicalForm := by
  refine ⟨fun s t hc h => ?_, fun s t h => (step_keeps h).params, canonicalForm_reset⟩
  have htaken : CanonicalForm { s with pending := s.pending.tail } :=
    CanonicalForm.congr (s := s) rfl rfl rfl rfl rfl rfl hc
  exact (step_keeps h).form htaken

/-- Settles O7: by what a packet at the head runs, and by what a hart whose pc is inside a region fetches. -/
theorem stepRunsTheDecodedInstruction : Obligations.StepRunsTheDecodedInstruction := by
  refine ⟨fun s rest p i hp hd => (step_of_packet hp).trans (runPacket_of_decode hd _), ?_⟩
  intro s rest h off i hp hpc hin hd
  have hword : read32 { s with pending := rest } off = read32 s off :=
    read32_congr s _ off fun _ _ => readByte_congr s _ rfl rfl rfl _
  have hfetch : hartFetch { s with pending := rest } h = .word (read32 s off) :=
    hword ▸ hartFetch_of_inside hpc hin
  rw [step_of_hartStep hp, runHart, hfetch]
  exact runPacket_of_decode hd _

/-- Settles O11: every instruction has a shape, and so an answer; a port's packet is an instruction or is rejected with an
answer; no operation touches the requests behind the one it serves. -/
theorem everyTransactionIsAnswered : Obligations.EveryTransactionIsAnswered := by
  refine ⟨fun i s => ?_, fun s rest p hp htag hport => ?_⟩
  · obtain ⟨t, ht, -⟩ := exec_executes i s
    exact ⟨t, ht⟩
  · obtain ⟨t, ht⟩ := runPacket_answers htag hport { s with pending := rest }
    have hstep : step s = .next t := (step_of_packet hp).trans ht
    have hpending : t.pending = s.pending.tail := (step_keeps hstep).pending
    exact ⟨t, hstep, by rw [hpending, hp]; rfl⟩

end Sys2Proof.Machine
end

section
/-! SUPPORT. The command engine as a small machine of its own: `engine` is the part of the state that items 1 to 5 and 7 of
R57 speak of, `EngineEvent` lists all that can happen to it, and every operation of the model is one of these events. -/

namespace Sys2Proof.Machine

/-! ## The engine and its events -/

/-- The part of the state that items 1 to 5 and 7 of R57 speak of: the staged action, the error, the recorded command, the
16 bytes of the entry region, and the fields that stay constant. -/
structure Engine where
  params : Params
  datacount : BitVec 4
  version : BitVec 4
  authenticated : Bool
  authbusy : Bool
  authtype : AuthType
  cmderr : CmdErr
  busy : Bool
  lastCommand : Word32
  lastCommandValid : Bool
  nextAction : Option StagedAction
  actionExecuted : Bool
  entry : Fin 0x10 → Byte

/-- The engine of a state. -/
def engine (s : State) : Engine where
  params := s.params
  datacount := s.datacount
  version := s.version
  authenticated := s.authenticated
  authbusy := s.authbusy
  authtype := s.authtype
  cmderr := s.cmderr
  busy := s.busy
  lastCommand := s.lastCommand
  lastCommandValid := s.lastCommandValid
  nextAction := s.nextAction
  actionExecuted := s.actionExecuted
  entry := fun a => readByte s a

/-- R49: what the entry region holds with nothing in flight. -/
def entryTemplate (p : Params) : Fin 0x10 → Byte := fun a => imageByte p.romEntry.toList a

/-- All that can happen to the engine. -/
inductive EngineEvent where
  /-- The engine is left alone. -/
  | quiet
  /-- R302: the clearing write. -/
  | clear (mask : BitVec 3)
  /-- R182: a command while an action is in flight. -/
  | refused
  /-- R184 to R186, R199 to R202: a command that is recorded and stages nothing; `e` is the error it leaves. -/
  | recorded (c : Word32) (e : CmdErr)
  /-- R192: a command that is staged. -/
  | staged (words : List Word32) (c : Word32) (h : Nat)
  /-- R251. -/
  | completed
  /-- R252. -/
  | faulted
  /-- R330. -/
  | reset

namespace EngineEvent

/-- In which engine an event can happen: a command is recorded or staged with nothing in flight and no error standing (R58),
and only an action in flight refuses a further command, completes or faults. -/
def Enabled : EngineEvent → Engine → Prop
  | quiet, _ => True
  | clear _, _ => True
  | refused, v => v.busy = true
  | recorded _ _, v => v.busy = false ∧ v.cmderr = .none
  | staged words _ _, v => v.busy = false ∧ v.cmderr = .none ∧ (words.length = 1 ∨ words.length = 2)
  | completed, v => v.busy = true
  | faulted, v => v.busy = true
  | reset, _ => True

/-- What an event makes of the engine. -/
def apply : EngineEvent → Engine → Engine
  | quiet, v => v
  | clear mask, v => { v with cmderr := clearedCmderr v.cmderr mask }
  | refused, v => { v with cmderr := .busy }
  | recorded c e, v => { v with lastCommand := c, lastCommandValid := true, cmderr := e }
  | staged words c h, v =>
    { v with
      lastCommand := c
      lastCommandValid := true
      nextAction := some { words := words, hart := h, command := c }
      actionExecuted := false
      busy := true
      entry := fun a => (words.flatMap (littleEndian 4)).getD a (v.entry a) }
  | completed, v => { v with actionExecuted := true, busy := false, entry := entryTemplate v.params }
  | faulted, v =>
    { v with actionExecuted := true, busy := false, cmderr := .exception, entry := entryTemplate v.params }
  | reset, v =>
    { v with
      cmderr := .none
      busy := false
      lastCommand := 0#32
      lastCommandValid := false
      nextAction := none
      actionExecuted := false
      entry := entryTemplate v.params }

/-- The events of a command that is carried out (R181). -/
def OfCommand : EngineEvent → Prop
  | quiet | refused | recorded _ _ | staged _ _ _ => True
  | clear _ | completed | faulted | reset => False

/-- The events that hart `h` causes by what it executes: its own action ends, or nothing (R253, R343). -/
def OfHart (s : State) (h : Nat) : EngineEvent → Prop
  | quiet => True
  | completed | faulted => Carries s h
  | clear _ | refused | recorded _ _ | staged _ _ _ | reset => False

end EngineEvent

/-- Between `s` and `t` the event happened to the engine. -/
structure EngineStep (ev : EngineEvent) (s t : State) : Prop where
  enabled : ev.Enabled (engine s)
  engine_eq : engine t = ev.apply (engine s)

namespace EngineStep

variable {ev : EngineEvent} {s t : State}

theorem of_engine_eq (h : engine t = engine s) : EngineStep .quiet s t := ⟨trivial, h⟩

/-- An event between two states is one between any two with the same engines. -/
theorem congr {s' t' : State} (h : EngineStep ev s t) (hs : engine s' = engine s) (ht : engine t' = engine t) :
    EngineStep ev s' t' :=
  ⟨hs ▸ h.enabled, ht.trans (h.engine_eq.trans (by rw [hs]))⟩

theorem params (h : EngineStep ev s t) : t.params = (ev.apply (engine s)).params := congrArg Engine.params h.engine_eq
theorem cmderr (h : EngineStep ev s t) : t.cmderr = (ev.apply (engine s)).cmderr := congrArg Engine.cmderr h.engine_eq
theorem busy (h : EngineStep ev s t) : t.busy = (ev.apply (engine s)).busy := congrArg Engine.busy h.engine_eq
theorem lastCommand (h : EngineStep ev s t) : t.lastCommand = (ev.apply (engine s)).lastCommand :=
  congrArg Engine.lastCommand h.engine_eq
theorem lastCommandValid (h : EngineStep ev s t) : t.lastCommandValid = (ev.apply (engine s)).lastCommandValid :=
  congrArg Engine.lastCommandValid h.engine_eq
theorem nextAction (h : EngineStep ev s t) : t.nextAction = (ev.apply (engine s)).nextAction :=
  congrArg Engine.nextAction h.engine_eq
theorem actionExecuted (h : EngineStep ev s t) : t.actionExecuted = (ev.apply (engine s)).actionExecuted :=
  congrArg Engine.actionExecuted h.engine_eq
theorem entry (h : EngineStep ev s t) {a : Nat} (ha : a < 0x10) :
    readByte t a = (ev.apply (engine s)).entry ⟨a, ha⟩ :=
  congrFun (congrArg Engine.entry h.engine_eq) ⟨a, ha⟩

end EngineStep

/-! ## Operations that leave the engine alone -/

/-- The engine looks at the memory through the bytes of the entry region only. -/
theorem engine_eq_of_entry {s t : State} (hentry : ∀ a, a < 0x10 → readByte t a = readByte s a)
    (hrest : engine t = { engine s with entry := (engine t).entry }) : engine t = engine s := by
  have h : (engine t).entry = (engine s).entry := funext fun a => hentry a a.isLt
  rw [hrest, h]

section
variable (s : State)

@[simp] theorem engine_respond (r : Response) : engine (respond r s) = engine s := rfl
@[simp] theorem engine_clearPulses : engine (clearPulses s) = engine s := rfl
@[simp] theorem engine_selectHart (v : Word32) : engine (selectHart v s) = engine s := rfl
@[simp] theorem engine_addNotification (h : Nat) : engine (addNotification h s) = engine s := rfl
@[simp] theorem engine_setPc (h : Nat) (a : XWord) : engine (setPc h a s) = engine s := rfl
@[simp] theorem engine_advancePc (h : Nat) : engine (advancePc h s) = engine s := rfl
@[simp] theorem engine_returnToRom (h : Nat) : engine (returnToRom h s) = engine s := rfl

@[simp] theorem engine_writeX (h : Nat) (r : BitVec 5) (v : XWord) : engine (writeX h r v s) = engine s := by
  rw [writeX_eq]; rfl

/-- R142: a `dmcontrol` write that is no reset does not reach the engine. -/
@[simp] theorem engine_hartResetRequest (h : Nat) : engine (hartResetRequest h s) = engine s := by
  unfold hartResetRequest; split <;> rfl

@[simp] theorem engine_haltOrResume (v : Word32) (h : Nat) : engine (haltOrResume v h s) = engine s := by
  unfold haltOrResume haltRequest resumeRequest
  simp only
  split_ifs <;> rfl

/-- R231, R232: a store to the program buffer or the exchange buffer does not reach the entry region. -/
theorem engine_writeBytes_of_beyond (off : Nat) (bs : List Byte) (h : 0x10 ≤ off) :
    engine (writeBytes s off bs) = engine s :=
  engine_eq_of_entry (fun a _ => readByte_writeBytes_of_outside s off bs a (by omega)) rfl

@[simp] theorem engine_write32_progbuf (n : Nat) (v : Word32) : engine (write32 s (progbufOffset n) v) = engine s :=
  engine_writeBytes_of_beyond s _ _ (by simp only [progbufOffset, Config.progbufOff]; omega)

@[simp] theorem engine_write32_data (n : Nat) (v : Word32) : engine (write32 s (dataOffset n) v) = engine s :=
  engine_writeBytes_of_beyond s _ _ (by simp only [dataOffset, Config.exchOff]; omega)

/-- R332: new bytes in the exchange buffer change no byte below it. -/
theorem readByte_drawExchange_of_below {a : Nat} (h : a < 0x80) : readByte (drawExchange s) a = readByte s a := by
  have hlookup := lookupKey_filter s.mem (fun i => decide (i < 0x80)) a
  simp only [readByte, drawExchange_mem, hlookup, h, decide_true, if_true]
  simp [unlisted, h]

@[simp] theorem engine_drawExchange : engine (drawExchange s) = engine s :=
  engine_eq_of_entry (fun _ h => readByte_drawExchange_of_below s (by omega)) rfl

@[simp] theorem engine_busLoadFrom (r : Region) (off len : Nat) : engine (busLoadFrom r off len s) = engine s := by
  rcases busLoadFrom_cases r off len s with ⟨-, h⟩ | ⟨-, h⟩ <;> rw [h] <;> rfl

/-- R220, R226: the regions that take a store begin above the entry region. -/
theorem beyond_entry_of_writable {off len : Nat} {r : Region} (hr : regionOf off len = some r)
    (hw : regionWritable r = true) : 0x10 ≤ off := by
  obtain ⟨-, hbase, -⟩ := (regionOf_eq_some off len r).1 hr
  cases r <;> simp only [regionWritable, Bool.false_eq_true] at hw <;> simp only [regionBase] at hbase <;> omega

theorem beyond_entry_of_storeServed {off len : Nat} (h : storeServed off len = true) : 0x10 ≤ off := by
  obtain ⟨-, hin⟩ := (insideWritable_iff off len).2 h
  omega

@[simp] theorem engine_busStoreTo (r : Region) (off : Nat) (bs : List Byte) :
    engine (busStoreTo r off bs s) = engine s := by
  rcases busStoreTo_cases r off bs s with ⟨hr, hw, h⟩ | ⟨-, h⟩ <;> rw [h, engine_respond]
  exact engine_writeBytes_of_beyond s off bs (beyond_entry_of_writable hr hw)


theorem engine_accessor (h : Nat) {effect : State → State} (he : ∀ s, engine (effect s) = engine s) :
    engine (accessor h effect s) = engine s := by
  unfold accessor; split <;> simp [he]

@[simp] theorem engine_honourInterrupt (h : Nat) : engine (honourInterrupt h s) = engine s := by
  unfold honourInterrupt; split
  · rw [engine_addNotification, engine_setPc]; rfl
  · rfl

end

/-! ## Operations that are an event -/

theorem readByte_writeEntry (words : List Word32) (s : State) (a : Nat) :
    readByte (writeEntry words s) a = (words.flatMap (littleEndian 4)).getD a (readByte s a) := by
  rw [writeEntry, readByte_writeBytes]
  by_cases h : a < (words.flatMap (littleEndian 4)).length
  · rw [dif_pos ⟨Nat.zero_le a, h⟩]; exact (List.getD_eq_getElem _ _ h).symm
  · rw [dif_neg fun hin => h hin.2]; exact (List.getD_eq_default _ _ (Nat.le_of_not_lt h)).symm

/-- R192: `Stage`, once the command is recorded. -/
theorem engineStep_stage {s : State} {words : List Word32} (c : Word32) (h : Nat) (hb : s.busy = false)
    (he : s.cmderr = .none) (hlen : words.length = 1 ∨ words.length = 2) :
    EngineStep (.staged words c h) s (stage words c h (recordCommand c s)) where
  enabled := ⟨hb, he, hlen⟩
  engine_eq := by
    have hentry : (engine (stage words c h (recordCommand c s))).entry =
        fun a : Fin 0x10 => (words.flatMap (littleEndian 4)).getD a (readByte s a) :=
      funext fun a => readByte_writeEntry words (recordCommand c s) a
    exact congrArg (fun e => { engine (stage words c h (recordCommand c s)) with entry := e }) hentry

/-- R181: all that the engine sees of `perform`. -/
theorem engineStep_perform (c : Word32) (s : State) : ∃ ev, ev.OfCommand ∧ EngineStep ev s (perform c s) := by
  rcases perform_cases c s with ⟨hb, h⟩ | ⟨-, -, h⟩ | ⟨hb, he, e, -, h⟩ | ⟨hb, he, h⟩ | ⟨hb, he, -, h⟩ <;> rw [h]
  · exact ⟨.refused, trivial, hb, rfl⟩
  · exact ⟨.quiet, trivial, .of_engine_eq rfl⟩
  · exact ⟨.recorded c e, trivial, ⟨hb, he⟩, rfl⟩
  · exact ⟨.recorded c s.cmderr, trivial, ⟨hb, he⟩, rfl⟩
  · exact ⟨.staged _ c _, trivial, engineStep_stage c _ hb he (compose_length s.params c)⟩

/-- R194 to R202: all that the engine sees of a class of the command word. -/
theorem engineStep_whenAccepted (c : Word32) (needsHalt : Bool) {act : Nat → State → State} (hact : ActsAsClass c act)
    (s : State) : ∃ ev, ev.OfCommand ∧ EngineStep ev s (whenAccepted c needsHalt act s) := by
  rcases whenAccepted_cases c needsHalt act s with
    ⟨hb, h⟩ | ⟨-, -, h⟩ | ⟨hb, he, -, h⟩ | ⟨hb, he, -, -, h⟩ | ⟨hb, he, -, -, h⟩ <;> rw [h]
  · exact ⟨.refused, trivial, hb, rfl⟩
  · exact ⟨.quiet, trivial, .of_engine_eq rfl⟩
  · exact ⟨.recorded c _, trivial, ⟨hb, he⟩, rfl⟩
  · exact ⟨.recorded c _, trivial, ⟨hb, he⟩, rfl⟩
  · rcases hact s.hartsel.toNat (recordCommand c s) with e | e | ⟨words, hlen, e⟩ <;> rw [e]
    · exact ⟨.recorded c s.cmderr, trivial, ⟨hb, he⟩, rfl⟩
    · exact ⟨.recorded c .notsup, trivial, ⟨hb, he⟩, rfl⟩
    · exact ⟨.staged words c _, trivial, engineStep_stage c _ hb he hlen⟩

/-- R251: an action in flight completes. -/
theorem engineStep_completeExecuted {s : State} (hb : s.busy = true) : EngineStep .completed s (completeExecuted s) where
  enabled := hb
  engine_eq := by
    have hentry : (engine (completeExecuted s)).entry = entryTemplate s.params :=
      funext fun a => ((completed_completeExecuted s hb).entry a).trans (if_pos a.isLt)
    have hrest : engine (completeExecuted s) =
        { engine s with actionExecuted := true, busy := false, entry := (engine (completeExecuted s)).entry } := by
      simp only [completeExecuted, hb, if_true]; rfl
    rw [hrest, hentry]; rfl

/-- R252: an action in flight faults. -/
theorem engineStep_completeFaulted {s : State} (hb : s.busy = true) : EngineStep .faulted s (completeFaulted s) where
  enabled := hb
  engine_eq := by
    have hdone := (engineStep_completeExecuted hb).engine_eq
    calc engine (completeFaulted s)
        = engine (setCmderr .exception (completeExecuted s)) := by rw [completeFaulted, if_pos hb]
      _ = { engine (completeExecuted s) with cmderr := .exception } := rfl
      _ = EngineEvent.faulted.apply (engine s) := by rw [hdone]; rfl

/-- R254: with nothing in flight a completion event does nothing. -/
theorem engineStep_actionExecuted (s : State) :
    ∃ ev, (ev = .quiet ∨ ev = .completed) ∧ EngineStep ev s (completeExecuted s) := by
  rcases completeExecuted_cases s with ⟨hb, -⟩ | ⟨-, h⟩
  · exact ⟨_, .inr rfl, engineStep_completeExecuted hb⟩
  · exact ⟨_, .inl rfl, .of_engine_eq (congrArg engine h)⟩

theorem engineStep_actionFaulted (s : State) :
    ∃ ev, (ev = .quiet ∨ ev = .faulted) ∧ EngineStep ev s (completeFaulted s) := by
  rcases completeFaulted_cases s with ⟨hb, -⟩ | ⟨-, h⟩
  · exact ⟨_, .inr rfl, engineStep_completeFaulted hb⟩
  · exact ⟨_, .inl rfl, .of_engine_eq (congrArg engine h)⟩

/-- R330. -/
theorem engineStep_moduleReset (s : State) : EngineStep .reset s (moduleReset s) where
  enabled := trivial
  engine_eq := by
    have hentry : (engine (moduleReset s)).entry = entryTemplate s.params := by
      funext a
      have hrestored : readByte (moduleReset s) a = readByte (restoreEntry (zeroProgbuf s)) a :=
        readByte_congr (restoreEntry (zeroProgbuf s)) (moduleReset s) rfl rfl rfl a
      show readByte (moduleReset s) a = _
      rw [hrestored, readByte_restoreEntry, if_pos a.isLt]
      exact entry_unlisted (zeroProgbuf s) a a.isLt
    exact congrArg (fun e => { engine (moduleReset s) with entry := e }) hentry

/-- R142: `dmactive = 0` is `reset()`; any other `dmcontrol` write leaves the engine alone. -/
theorem engineStep_storeDmcontrol (v : Word32) (s : State) :
    ∃ ev, (ev = .quiet ∨ ev = .reset ∧ dmactiveBit v = false) ∧ EngineStep ev s (storeDmcontrol v s) := by
  unfold storeDmcontrol
  cases hv : dmactiveBit v
  · exact ⟨.reset, .inr ⟨rfl, rfl⟩, engineStep_moduleReset s⟩
  · refine ⟨.quiet, .inl rfl, .of_engine_eq ?_⟩
    simp only [if_true, engine_haltOrResume]
    split <;> simp

/-- R150: a slot write leaves the engine alone, or replays the recorded command on the engine as it was. -/
theorem engineStep_storeSlot (n : Nat) (v : Word32) (s : State) :
    ∃ ev, (ev = .quiet ∨ ev.OfCommand ∧ s.autoexec.getLsbD n = true ∧ s.lastCommandValid = true) ∧
      EngineStep ev s (storeSlot n v s) := by
  have hstored : engine (write32 s (dataOffset n) v) = engine s := engine_write32_data s n v
  unfold storeSlot
  simp only
  split
  next hreplay =>
    obtain ⟨hauto, hvalid⟩ := (Bool.and_eq_true _ _).mp hreplay
    obtain ⟨ev, hev, hstep⟩ := engineStep_perform s.lastCommand (write32 s (dataOffset n) v)
    exact ⟨ev, .inr ⟨hev, hauto, hvalid⟩, hstep.congr hstored.symm rfl⟩
  next => exact ⟨.quiet, .inl rfl, .of_engine_eq hstored⟩

/-! ## What a hart does -/

/-- Whether a hart carries the action is for the engine to say. -/
theorem carries_congr {s t : State} (ht : engine t = engine s) (h : Nat) : Carries t h ↔ Carries s h := by
  have hbusy : t.busy = s.busy := congrArg Engine.busy ht
  have haction : t.nextAction = s.nextAction := congrArg Engine.nextAction ht
  rw [Carries, Carries, hbusy, haction]

/-- What hart `h` does from `s` to `t` ends its own action or leaves the engine alone. -/
def HartStep (h : Nat) (s t : State) : Prop :=
  ∃ ev, ev.OfHart s h ∧ EngineStep ev s t

namespace HartStep

variable {h : Nat} {s t : State}

theorem of_engine_eq (ht : engine t = engine s) : HartStep h s t := ⟨.quiet, trivial, .of_engine_eq ht⟩

theorem congr {s' t' : State} (hstep : HartStep h s t) (hs : engine s' = engine s) (ht : engine t' = engine t) :
    HartStep h s' t' := by
  obtain ⟨ev, hev, hengine⟩ := hstep
  refine ⟨ev, ?_, hengine.congr hs ht⟩
  cases ev with
  | completed | faulted => exact (carries_congr hs h).2 hev
  | quiet | clear | refused | recorded | staged | reset => exact hev

/-- R281 (c), R301: the carrying hart's exception faults its action; the engine sees no other exception. -/
theorem takeException (h : Nat) (s : State) : HartStep h s (takeException h s) := by
  rcases takeException_cases h s with ⟨hc, e⟩ | ⟨-, -, e⟩ | ⟨-, -, e⟩ <;> rw [e]
  · have hfault := engineStep_completeFaulted (busy_of_carriesAction s h hc)
    exact ⟨.faulted, (carries_iff s h).2 hc, hfault.congr rfl (engine_setPc _ _ _)⟩
  · exact of_engine_eq rfl
  · exact of_engine_eq rfl

/-- R277, R253: the carrying hart's trap completes its action; the engine sees no other trap. -/
theorem trapToDebugRom (h : Nat) (s : State) : HartStep h s (trapToDebugRom h s) := by
  rcases trapToDebugRom_cases h s with ⟨hc, e⟩ | ⟨-, -, e⟩ | ⟨-, -, e⟩ <;> rw [e]
  · have hdone := engineStep_completeExecuted (busy_of_carriesAction s h hc)
    exact ⟨.completed, (carries_iff s h).2 hc, hdone.congr rfl (engine_returnToRom _ _)⟩
  · exact of_engine_eq rfl
  · exact of_engine_eq rfl

theorem hartStore (h a : Nat) (bs : List Byte) (s : State) : HartStep h s (hartStore h a bs s) := by
  rcases hartStore_cases h a bs s with ⟨-, hs, e⟩ | ⟨-, -, e⟩ | ⟨-, e | e⟩ <;> rw [e]
  · exact of_engine_eq (engine_writeBytes_of_beyond s _ bs (beyond_entry_of_storeServed hs))
  · exact (takeException h (respond .fail s)).congr rfl rfl
  · exact of_engine_eq rfl
  · exact (takeException h { respond .none s with freeCount := s.freeCount + 1 }).congr rfl rfl

theorem hartLoad (h a n : Nat) (extend : XWord → XWord) (rd : BitVec 5) (s : State) :
    HartStep h s (hartLoad h a n extend rd s) := by
  rcases hartLoad_cases h a n extend rd s with ⟨-, -, e⟩ | ⟨-, -, e⟩ | ⟨-, e | e⟩ <;> rw [e]
  · exact of_engine_eq ((engine_advancePc _ _).trans (engine_writeX _ _ _ _))
  · exact (takeException h (respond .fail s)).congr rfl rfl
  · exact of_engine_eq ((engine_advancePc _ _).trans (engine_writeX _ _ _ _))
  · exact (takeException h { respond .none s with freeCount := s.freeCount + 1 }).congr rfl rfl

end HartStep

end Sys2Proof.Machine
end

section
/-! SUPPORT. Which instruction causes which event of the engine, and that every step of the machine is one event. -/

namespace Sys2Proof.Machine

/-- R148, R150: the instruction is a command, or the write of a slot that replays the recorded one. -/
def RunsCommand (s : State) (i : Instr) : Prop :=
  (∃ c, CarriesCommand i c) ∨
    ∃ v n, (n, i) ∈ dataWrites v ∧ s.autoexec.getLsbD n = true ∧ s.lastCommandValid = true

/-- The instruction is one that the hart which carries the action executes (R253, R343). -/
def CarrierExecutes (s : State) (i : Instr) : Prop :=
  Carries s s.stepping ∧ ∃ w, encode i = .hart w

/-- The instructions that can cause an event of the engine. -/
def EngineEvent.CausedBy (s : State) (i : Instr) : EngineEvent → Prop
  | quiet => True
  | clear mask => ∃ v : Word32, i = .dmiWriteAbstractcs v ∧ mask = clearMask v
  | refused | recorded _ _ | staged _ _ _ => RunsCommand s i
  | completed => i = .actionExecuted ∨ CarrierExecutes s i
  | faulted => i = .actionFaulted ∨ CarrierExecutes s i
  | reset => i = .powerOn ∨ ∃ v : Word32, i = .dmiWriteDmcontrol v ∧ dmactiveBit v = false

theorem EngineEvent.OfCommand.causedBy {s : State} {i : Instr} {ev : EngineEvent} (hi : RunsCommand s i)
    (hev : ev.OfCommand) : ev.CausedBy s i := by
  cases ev with
  | quiet => trivial
  | refused | recorded | staged => exact hi
  | clear | completed | faulted | reset => exact hev.elim

/-- The instruction causes one event of the engine between `s` and `t`. -/
def CausesStep (i : Instr) (s t : State) : Prop :=
  ∃ ev, ev.CausedBy s i ∧ EngineStep ev s t

namespace CausesStep

variable {i : Instr} {s t : State}

theorem of_engine_eq (h : engine t = engine s) : CausesStep i s t := ⟨.quiet, trivial, .of_engine_eq h⟩

/-- R140: a DMI write is its effect, after a `Sync()` that leaves the engine alone. -/
theorem dmiWrite {effect : State → State} {ev : EngineEvent} (hev : ev.CausedBy s i)
    (h : EngineStep ev (sync (clearPulses s)) (effect (sync (clearPulses s)))) : CausesStep i s (dmiWrite effect s) :=
  ⟨ev, hev, h.congr rfl rfl⟩

/-- A hart's own instruction causes what the hart does. -/
theorem of_hartStep {u : State} {w : Word32} (row : encode i = .hart w) (h : HartStep s.stepping s u)
    (ht : engine t = engine u) : CausesStep i s t := by
  obtain ⟨ev, hev, hstep⟩ := h.congr (s' := s) rfl ht
  refine ⟨ev, ?_, hstep⟩
  cases ev with
  | quiet => trivial
  | completed | faulted => exact .inr ⟨hev, w, row⟩
  | clear | refused | recorded | staged | reset => exact hev.elim

end CausesStep

/-- R110, R150: the request of a slot's write is made by that slot's row alone. -/
theorem mem_dataWrites_of_row {i : Instr} {n : Nat} {v : Word32} (lt : n < 8) (row : encode i = .dmi true (0x04 + n) v) :
    (n, i) ∈ dataWrites v := by
  cases i <;> simp only [encode, Packet.dmi.injEq, reduceCtorEq, false_and, true_and] at row
  all_goals
    obtain ⟨haddress, rfl⟩ := row
    simp only [dataWrites, List.mem_cons, Prod.mk.injEq, reduceCtorEq, and_false, and_true, List.not_mem_nil, or_false,
      false_or]
    omega

/-- Every instruction causes one event of the engine. -/
theorem Executes.causesStep {i : Instr} {s t : State} (h : Executes s i t) : CausesStep i s t := by
  cases h with
  | registerRead value a row => exact .of_engine_eq rfl
  | slotWrite n v lt row =>
    obtain ⟨ev, hev, hstep⟩ := engineStep_storeSlot n v (sync (clearPulses s))
    refine .dmiWrite ?_ hstep
    rcases hev with rfl | ⟨hcommand, hauto, hvalid⟩
    · trivial
    · exact hcommand.causedBy (.inr ⟨v, n, mem_dataWrites_of_row lt row, hauto, hvalid⟩)
  | progbufWrite n v lt row => exact .of_engine_eq (engine_write32_progbuf (sync (clearPulses s)) n v)
  | dmcontrolWrite v =>
    obtain ⟨ev, hev, hstep⟩ := engineStep_storeDmcontrol v (sync (clearPulses s))
    refine .dmiWrite ?_ hstep
    rcases hev with rfl | ⟨rfl, hv⟩
    · trivial
    · exact .inr ⟨v, rfl, hv⟩
  | abstractcsWrite v => exact ⟨.clear (clearMask v), ⟨v, rfl, rfl⟩, trivial, rfl⟩
  | commandWrite v =>
    obtain ⟨ev, hev, hstep⟩ := engineStep_perform v (sync (clearPulses s))
    exact .dmiWrite (hev.causedBy (.inl ⟨v, .inl rfl⟩)) hstep
  | command c needsHalt act class_act row =>
    obtain ⟨ev, hev, hstep⟩ := engineStep_whenAccepted c needsHalt class_act (sync (clearPulses s))
    exact .dmiWrite (hev.causedBy (.inl ⟨c, .inr row⟩)) hstep
  | load r off len row => exact .of_engine_eq (engine_busLoadFrom _ r off len)
  | store r off bytes row => exact .of_engine_eq (engine_busStoreTo _ r off bytes)
  | setInterrupt h => exact .of_engine_eq (engine_accessor s h fun _ => rfl)
  | clearInterrupt h => exact .of_engine_eq (engine_accessor s h fun _ => rfl)
  | setHaltNotification h => exact .of_engine_eq (engine_accessor s h fun _ => rfl)
  | clearHaltNotification h => exact .of_engine_eq (engine_accessor s h fun _ => rfl)
  | getter h set tag row => exact .of_engine_eq rfl
  | actionExecuted =>
    obtain ⟨ev, hev, hstep⟩ := engineStep_actionExecuted (clearPulses s)
    refine ⟨ev, ?_, hstep.congr rfl rfl⟩
    rcases hev with rfl | rfl
    · trivial
    · exact .inl rfl
  | actionFaulted =>
    obtain ⟨ev, hev, hstep⟩ := engineStep_actionFaulted (clearPulses s)
    refine ⟨ev, ?_, hstep.congr rfl rfl⟩
    rcases hev with rfl | rfl
    · trivial
    · exact .inl rfl
  | powerOn =>
    have hdraw : engine (drawExchange (moduleReset (clearPulses s))) = engine (moduleReset (clearPulses s)) :=
      engine_drawExchange _
    exact ⟨.reset, .inl rfl, (engineStep_moduleReset (clearPulses s)).congr rfl hdraw⟩
  | hartStore a bs w row => exact .of_hartStep row ((HartStep.hartStore _ a bs (clearPulses s)).congr rfl rfl) rfl
  | hartLoad a n extend rd w row =>
    exact .of_hartStep row ((HartStep.hartLoad _ a n extend rd (clearPulses s)).congr rfl rfl) rfl
  | hartException w row =>
    exact .of_hartStep row ((HartStep.takeException _ (respond .none (clearPulses s))).congr rfl rfl) rfl
  | ebreak => exact .of_hartStep rfl ((HartStep.trapToDebugRom _ (clearPulses s)).congr rfl rfl) rfl
  | jal imm => exact .of_engine_eq rfl

/-! ## Every step -/

theorem runPacket_engineStep {p : Packet} {s t : State} (h : runPacket p s = .next t) : ∃ ev, EngineStep ev s t := by
  cases hd : decode p with
  | some i =>
    obtain ⟨ev, -, hstep⟩ := (executes_of_exec ((runPacket_of_decode hd s).symm.trans h)).causesStep
    exact ⟨ev, hstep⟩
  | none =>
    rw [runPacket_of_not_decoded hd] at h
    rcases rejectPacket_cases hd h with rfl | rfl | rfl
    · exact ⟨.quiet, .of_engine_eq rfl⟩
    · exact ⟨.quiet, .of_engine_eq rfl⟩
    · obtain ⟨ev, -, hstep⟩ := HartStep.takeException s.stepping (respond .none (clearPulses s))
      exact ⟨ev, hstep.congr rfl rfl⟩

theorem runHart_engineStep {h : Nat} {s t : State} (hr : runHart h s = .next t) : ∃ ev, EngineStep ev s t := by
  unfold runHart at hr
  split at hr
  · obtain ⟨ev, hstep⟩ := runPacket_engineStep hr
    exact ⟨ev, hstep.congr rfl rfl⟩
  · cases hr
    obtain ⟨ev, -, hstep⟩ := HartStep.takeException h (respond .fail (clearPulses s))
    exact ⟨ev, hstep.congr rfl rfl⟩
  · cases hr

/-- Every step of the machine is one event of the engine. -/
theorem step_engineStep {s t : State} (h : step s = .next t) : ∃ ev, EngineStep ev s t := by
  unfold step at h
  split at h
  next => cases h; exact ⟨.quiet, .of_engine_eq rfl⟩
  next p rest hp =>
    obtain ⟨ev, hstep⟩ := runPacket_engineStep h
    exact ⟨ev, hstep.congr rfl rfl⟩
  next k rest hp =>
    obtain ⟨ev, hstep⟩ := runHart_engineStep h
    exact ⟨ev, hstep.congr rfl rfl⟩
  next k rest hp => cases h; exact ⟨.quiet, .of_engine_eq (engine_honourInterrupt { s with pending := rest } k)⟩
  next hs rest hp => cases h; exact ⟨.quiet, .of_engine_eq rfl⟩
  next k c rest hp => cases h; exact ⟨.quiet, .of_engine_eq rfl⟩

end Sys2Proof.Machine
end

section
/-! SUPPORT. What the events of the engine keep: items 1 to 5 and 7 of R57. -/

namespace Sys2Proof.Machine.EngineStep

variable {ev : EngineEvent} {s t : State}

theorem params_eq (h : EngineStep ev s t) : t.params = s.params := by
  rw [h.params]; cases ev <;> rfl

/-- R57 item 5: no event writes a constant field. -/
theorem constantsHold (h : EngineStep ev s t) (inv : ConstantsHold s) : ConstantsHold t := by
  have hd : t.datacount = s.datacount := (congrArg Engine.datacount h.engine_eq).trans (by cases ev <;> rfl)
  have hv : t.version = s.version := (congrArg Engine.version h.engine_eq).trans (by cases ev <;> rfl)
  have ha : t.authenticated = s.authenticated := (congrArg Engine.authenticated h.engine_eq).trans (by cases ev <;> rfl)
  have hb : t.authbusy = s.authbusy := (congrArg Engine.authbusy h.engine_eq).trans (by cases ev <;> rfl)
  have ht : t.authtype = s.authtype := (congrArg Engine.authtype h.engine_eq).trans (by cases ev <;> rfl)
  rw [ConstantsHold, hd, hv, ha, hb, ht]
  exact inv

/-- R57 item 1: staging sets `busy` with a new action, and completing clears it with that action executed. -/
theorem busyIffStaged (h : EngineStep ev s t) (inv : BusyIffStaged s) : BusyIffStaged t := by
  rw [BusyIffStaged, h.busy, h.nextAction, h.actionExecuted]
  cases ev with
  | quiet | clear | refused | recorded => exact inv
  | staged | completed | faulted | reset => simp [EngineEvent.apply]

/-- R57 item 4: EXCEPTION comes with `busy` cleared, and an action is staged only with no error standing. -/
theorem busyErrorOnly (h : EngineStep ev s t) (inv : BusyErrorOnly s) : BusyErrorOnly t := by
  rw [BusyErrorOnly, h.busy, h.cmderr]
  cases ev with
  | quiet => exact inv
  | clear mask =>
    intro hb
    show clearedCmderr s.cmderr mask = .none ∨ clearedCmderr s.cmderr mask = .busy
    unfold clearedCmderr
    split
    · exact .inl rfl
    · exact inv hb
  | refused => exact fun _ => .inr rfl
  | recorded c e => exact fun hb => absurd (h.enabled.1.symm.trans hb) Bool.false_ne_true
  | staged words c k => exact fun _ => .inl h.enabled.2.1
  | completed | faulted | reset => exact fun hb => absurd hb Bool.false_ne_true

/-- R57 item 7: a recorded command comes with its valid bit, and `reset()` clears both. -/
theorem unrecordedIsZero (h : EngineStep ev s t) (inv : UnrecordedIsZero s) : UnrecordedIsZero t := by
  rw [UnrecordedIsZero, h.lastCommandValid, h.lastCommand]
  cases ev with
  | quiet | clear | refused | completed | faulted => exact inv
  | recorded | staged => exact fun hv => absurd hv Bool.noConfusion
  | reset => exact fun _ => rfl

/-- R57 item 2: what ends an action restores the template. -/
theorem entryAtTemplate (h : EngineStep ev s t) (inv : EntryAtTemplate s) : EntryAtTemplate t := by
  rw [EntryAtTemplate, h.busy, h.params_eq]
  intro hb a ha
  rw [h.entry ha]
  cases ev with
  | quiet | clear | refused | recorded => exact inv hb a ha
  | staged => exact absurd hb Bool.noConfusion
  | completed | faulted | reset => rfl

/-- R57 item 3: the staged words stand over the template that item 2 gives, and no event but the end of the action writes
the entry region of an action in flight. -/
theorem entryHoldsAction (h : EngineStep ev s t) (template : EntryAtTemplate s) (inv : EntryHoldsAction s) :
    EntryHoldsAction t := by
  have hentry := fun a ha => h.entry (a := a) ha
  rw [EntryHoldsAction, h.busy, h.nextAction, h.params_eq]
  intro hb a ha
  cases ev with
  | quiet | clear | refused =>
    obtain ⟨hlen, hwords, hbeyond⟩ := inv hb a ha
    refine ⟨hlen, fun i hi => ?_, fun off hoff hlt => (hentry off hlt).trans (hbeyond off hoff hlt)⟩
    exact (read32_congr s t _ fun j hj => hentry _ (by omega)).trans (hwords i hi)
  | recorded => exact absurd (h.enabled.1.symm.trans hb) Bool.false_ne_true
  | staged words c k =>
    obtain ⟨hidle, -, hlen⟩ := h.enabled
    cases ha
    have hwritten : ∀ off, off < 0x10 → readByte t off = readByte (writeEntry words s) off :=
      fun off hlt => (hentry off hlt).trans (readByte_writeEntry words s off).symm
    refine ⟨hlen, fun i hi => ?_, fun off hoff hlt => ?_⟩
    · have hstaged : i < words.length := hi
      exact (read32_congr (writeEntry words s) t _ fun j hj => hwritten _ (by omega)).trans (read32_writeEntry words s i hi)
    · exact ((hwritten off hlt).trans (readByte_writeEntry_of_beyond words s off hoff)).trans (template hidle off hlt)
  | completed | faulted | reset => exact absurd hb Bool.false_ne_true

end Sys2Proof.Machine.EngineStep
end

section
/-! SUPPORT. The per-hart tracker: only the fold of a notification records a hart as halted, and no operation takes an id of
`MAX_HARTS` or more into a set. -/

namespace Sys2Proof.Machine

/-- R57 item 6, for both sets. -/
def IdsBounded (s : State) : Prop := IdsBelow s.interrupt ∧ IdsBelow s.haltNotification

/-- From `s` to `t` no hart becomes recorded as halted, and the two sets stay below `MAX_HARTS`. -/
structure HaltsNone (s t : State) : Prop where
  halted : ∀ k, isHalted t k = true → isHalted s k = true
  bounded : IdsBounded s → IdsBounded t

namespace HaltsNone

theorem refl (s : State) : HaltsNone s s := ⟨fun _ => id, id⟩

theorem trans {s t u : State} (h : HaltsNone s t) (k : HaltsNone t u) : HaltsNone s u :=
  ⟨fun j hj => h.halted j (k.halted j hj), fun hs => k.bounded (h.bounded hs)⟩

theorem of_same {s t : State} (halted : t.halted = s.halted) (interrupt : t.interrupt = s.interrupt)
    (notification : t.haltNotification = s.haltNotification) : HaltsNone s t where
  halted k hk := by rwa [isHalted, ← halted]
  bounded hs := by rwa [IdsBounded, interrupt, notification]

variable (s : State)

/-! ## The tracker's own operations -/

theorem setHalted_false (h : Nat) : HaltsNone s (setHalted h false s) where
  halted k hk := by
    rw [isHalted_setHalted] at hk
    split at hk
    · cases hk
    · exact hk
  bounded := id

theorem addInterrupt {h : Nat} (hh : h < Config.maxHarts) : HaltsNone s (addInterrupt h s) where
  halted _ := id
  bounded hs := ⟨idsBelow_insertId _ h hs.1 hh, hs.2⟩

theorem dropInterrupt (h : Nat) : HaltsNone s (dropInterrupt h s) where
  halted _ := id
  bounded hs := ⟨idsBelow_removeId _ h hs.1, hs.2⟩

theorem addNotification {h : Nat} (hh : h < Config.maxHarts) : HaltsNone s (addNotification h s) where
  halted _ := id
  bounded hs := ⟨hs.1, idsBelow_insertId _ h hs.2 hh⟩

theorem dropNotification (h : Nat) : HaltsNone s (dropNotification h s) where
  halted _ := id
  bounded hs := ⟨hs.1, idsBelow_removeId _ h hs.2⟩

/-- R330: no hart is recorded as halted and both sets are empty. -/
theorem moduleReset : HaltsNone s (moduleReset s) where
  halted k hk := by simp [isHalted] at hk
  bounded _ := ⟨fun _ h => absurd h List.not_mem_nil, fun _ h => absurd h List.not_mem_nil⟩

theorem hartResetRequest (h : Nat) : HaltsNone s (hartResetRequest h s) := by
  unfold Machine.hartResetRequest
  split
  · have hemit : HaltsNone s (emit (.hartReset h) s) := of_same rfl rfl rfl
    exact hemit.trans ((setHalted_false _ h).trans ((dropInterrupt _ h).trans (dropNotification _ h)))
  · exact refl s

/-- R142 to R144: a halt request only asks, and a resume request only drops the entry. -/
theorem haltOrResume (v : Word32) {h : Nat} (hh : h < Config.maxHarts) : HaltsNone s (haltOrResume v h s) := by
  have hhalt : ∀ st, HaltsNone s (haltRequest h st s) := fun st => by
    unfold haltRequest; split
    · exact addInterrupt s hh
    · exact refl s
  have hresume : ∀ st t, HaltsNone t (resumeRequest h st t) := fun st t => by
    unfold resumeRequest; split
    · exact (setHalted_false t h).trans (of_same rfl rfl rfl)
    · exact refl t
  unfold Machine.haltOrResume
  simp only
  split_ifs
  · exact (hhalt _).trans (hresume _ _)
  · exact hresume _ _
  · exact hhalt _
  · exact refl s

/-- R34: `hartsel` has ten bits, so the hart it selects is below `MAX_HARTS`. -/
theorem storeDmcontrol (v : Word32) : HaltsNone s (storeDmcontrol v s) := by
  have hsel : (hartselField v).toNat < Config.maxHarts := (hartselField v).isLt
  have hselect : HaltsNone s (selectHart v s) := of_same rfl rfl rfl
  unfold Machine.storeDmcontrol
  simp only
  split
  · refine hselect.trans (trans ?_ (haltOrResume _ v hsel))
    split
    · exact hartResetRequest _ _
    · exact refl _
  · exact moduleReset s

theorem accessor (h : Nat) {effect : State → State} (he : h < Config.maxHarts → ∀ s, HaltsNone s (effect s)) :
    HaltsNone s (accessor h effect s) := by
  unfold Machine.accessor
  split
  next hh => exact (of_same rfl rfl rfl : HaltsNone s (clearPulses s)).trans ((he hh _).trans (of_same rfl rfl rfl))
  next => exact of_same rfl rfl rfl

/-! ## Operations that leave the tracker alone -/

theorem perform (c : Word32) : HaltsNone s (perform c s) := by
  rcases perform_cases c s with ⟨-, h⟩ | ⟨-, -, h⟩ | ⟨-, -, e, -, h⟩ | ⟨-, -, h⟩ | ⟨-, -, -, h⟩ <;> rw [h] <;>
    exact of_same rfl rfl rfl

theorem whenAccepted (c : Word32) (needsHalt : Bool) {act : Nat → State → State} (hact : ActsAsClass c act) :
    HaltsNone s (whenAccepted c needsHalt act s) := by
  rcases whenAccepted_cases c needsHalt act s with
    ⟨-, h⟩ | ⟨-, -, h⟩ | ⟨-, -, -, h⟩ | ⟨-, -, -, -, h⟩ | ⟨-, -, -, -, h⟩ <;> rw [h]
  case inr.inr.inr.inr =>
    rcases hact s.hartsel.toNat (recordCommand c s) with e | e | ⟨words, -, e⟩ <;> rw [e] <;>
      exact of_same rfl rfl rfl
  all_goals exact of_same rfl rfl rfl

theorem storeSlot (n : Nat) (v : Word32) : HaltsNone s (storeSlot n v s) := by
  have hstored : HaltsNone s (write32 s (dataOffset n) v) := of_same rfl rfl rfl
  unfold Machine.storeSlot
  simp only
  split
  · exact hstored.trans (perform _ _)
  · exact hstored

theorem busLoadFrom (r : Region) (off len : Nat) : HaltsNone s (busLoadFrom r off len s) := by
  rcases busLoadFrom_cases r off len s with ⟨-, h⟩ | ⟨-, h⟩ <;> rw [h] <;> exact of_same rfl rfl rfl

theorem busStoreTo (r : Region) (off : Nat) (bs : List Byte) : HaltsNone s (busStoreTo r off bs s) := by
  rcases busStoreTo_cases r off bs s with ⟨-, -, h⟩ | ⟨-, h⟩ <;> rw [h] <;> exact of_same rfl rfl rfl

theorem completeExecuted : HaltsNone s (completeExecuted s) := by
  rcases completeExecuted_cases s with ⟨-, h⟩ | ⟨-, h⟩ <;> rw [h] <;> exact of_same rfl rfl rfl

theorem completeFaulted : HaltsNone s (completeFaulted s) := by
  rcases completeFaulted_cases s with ⟨-, h⟩ | ⟨-, h⟩ <;> rw [h] <;> exact of_same rfl rfl rfl

theorem takeException (h : Nat) : HaltsNone s (takeException h s) := by
  rcases takeException_cases h s with ⟨-, e⟩ | ⟨-, -, e⟩ | ⟨-, -, e⟩ <;> rw [e]
  · exact (completeFaulted s).trans (of_same rfl rfl rfl)
  · exact of_same rfl rfl rfl
  · exact of_same rfl rfl rfl

theorem trapToDebugRom (h : Nat) : HaltsNone s (trapToDebugRom h s) := by
  rcases trapToDebugRom_cases h s with ⟨-, e⟩ | ⟨-, -, e⟩ | ⟨-, -, e⟩ <;> rw [e]
  · exact (completeExecuted s).trans (of_same rfl rfl rfl)
  · exact of_same rfl rfl rfl
  · exact of_same rfl rfl rfl

theorem respond (r : Response) : HaltsNone s (respond r s) := of_same rfl rfl rfl

theorem advancePc (h : Nat) : HaltsNone s (advancePc h s) := of_same rfl rfl rfl

theorem writeX (h : Nat) (r : BitVec 5) (v : XWord) : HaltsNone s (writeX h r v s) := by
  rw [writeX_eq]; exact of_same rfl rfl rfl

/-- Log 9: an access outside the module. -/
theorem platformAccess : HaltsNone s { Machine.respond .none s with freeCount := s.freeCount + 1 } := of_same rfl rfl rfl

theorem hartStore (h a : Nat) (bs : List Byte) : HaltsNone s (hartStore h a bs s) := by
  rcases hartStore_cases h a bs s with ⟨-, -, e⟩ | ⟨-, -, e⟩ | ⟨-, e | e⟩ <;> rw [e]
  · exact of_same rfl rfl rfl
  · exact (respond s _).trans (takeException _ h)
  · exact (platformAccess s).trans (advancePc _ h)
  · exact (platformAccess s).trans (takeException _ h)

theorem hartLoad (h a n : Nat) (extend : XWord → XWord) (rd : BitVec 5) : HaltsNone s (hartLoad h a n extend rd s) := by
  rcases hartLoad_cases h a n extend rd s with ⟨-, -, e⟩ | ⟨-, -, e⟩ | ⟨-, e | e⟩ <;> rw [e]
  · exact (respond s _).trans ((writeX _ h rd _).trans (advancePc _ h))
  · exact (respond s _).trans (takeException _ h)
  · exact (platformAccess s).trans ((writeX _ h rd _).trans (advancePc _ h))
  · exact (platformAccess s).trans (takeException _ h)

end HaltsNone

/-- R249: `Sync()` empties one set and only drops members of the other. -/
theorem idsBounded_sync {s : State} (hs : IdsBounded s) : IdsBounded (sync (clearPulses s)) :=
  ⟨idsBelow_foldInterrupt _ _ _ hs.1, fun _ h => absurd h List.not_mem_nil⟩

/-! ## Every instruction and every step -/

/-- R140: the instruction is a DMI transaction. -/
def IsDmi (i : Instr) : Prop := (∃ w a v, encode i = .dmi w a v) ∨ ∃ c, encode i = .command c

/-- R52, R240: a hart becomes recorded as halted by no instruction but, in a DMI transaction, by the `Sync()` before it. -/
theorem Executes.haltsNone {i : Instr} {s t : State} (h : Executes s i t) :
    HaltsNone s t ∨ IsDmi i ∧ HaltsNone (sync (clearPulses s)) t := by
  have hclear : HaltsNone s (clearPulses s) := .of_same rfl rfl rfl
  have hrespond : ∀ {t u : State} {r : Response}, HaltsNone t u → HaltsNone t (respond r u) :=
    fun h => h.trans (.of_same rfl rfl rfl)
  cases h with
  | registerRead value a row => exact .inr ⟨.inl ⟨_, _, _, row⟩, .of_same rfl rfl rfl⟩
  | slotWrite n v lt row => exact .inr ⟨.inl ⟨_, _, _, row⟩, hrespond (.storeSlot _ n v)⟩
  | progbufWrite n v lt row => exact .inr ⟨.inl ⟨_, _, _, row⟩, .of_same rfl rfl rfl⟩
  | dmcontrolWrite v => exact .inr ⟨.inl ⟨_, _, _, rfl⟩, hrespond (.storeDmcontrol _ v)⟩
  | abstractcsWrite v => exact .inr ⟨.inl ⟨_, _, _, rfl⟩, .of_same rfl rfl rfl⟩
  | commandWrite v => exact .inr ⟨.inl ⟨_, _, _, rfl⟩, hrespond (.perform _ v)⟩
  | command c needsHalt act class_act row => exact .inr ⟨.inr ⟨c, row⟩, hrespond (.whenAccepted _ c needsHalt class_act)⟩
  | load r off len row => exact .inl (hclear.trans (.busLoadFrom _ r off len))
  | store r off bytes row => exact .inl (hclear.trans (.busStoreTo _ r off bytes))
  | setInterrupt h => exact .inl (.accessor s h fun hh t => .addInterrupt t hh)
  | clearInterrupt h => exact .inl (.accessor s h fun _ t => .dropInterrupt t h)
  | setHaltNotification h => exact .inl (.accessor s h fun hh t => .addNotification t hh)
  | clearHaltNotification h => exact .inl (.accessor s h fun _ t => .dropNotification t h)
  | getter h set tag row => exact .inl (.of_same rfl rfl rfl)
  | actionExecuted => exact .inl (hrespond (hclear.trans (.completeExecuted _)))
  | actionFaulted => exact .inl (hrespond (hclear.trans (.completeFaulted _)))
  | powerOn => exact .inl ((hclear.trans (.moduleReset _)).trans (.of_same rfl rfl rfl))
  | hartStore a bs w row => exact .inl (hclear.trans (.hartStore _ _ a bs))
  | hartLoad a n extend rd w row => exact .inl (hclear.trans (.hartLoad _ _ a n extend rd))
  | hartException w row => exact .inl ((hrespond hclear).trans (.takeException _ _))
  | ebreak => exact .inl (hrespond (hclear.trans (.trapToDebugRom _ _)))
  | jal imm => exact .inl (.of_same rfl rfl rfl)

theorem runPacket_idsBounded {p : Packet} {s t : State} (h : runPacket p s = .next t) (hs : IdsBounded s) :
    IdsBounded t := by
  cases hd : decode p with
  | some i =>
    rcases (executes_of_exec ((runPacket_of_decode hd s).symm.trans h)).haltsNone with hnone | ⟨-, hnone⟩
    · exact hnone.bounded hs
    · exact hnone.bounded (idsBounded_sync hs)
  | none =>
    rw [runPacket_of_not_decoded hd] at h
    rcases rejectPacket_cases hd h with rfl | rfl | rfl
    · exact idsBounded_sync hs
    · exact hs
    · exact (HaltsNone.takeException (respond .none (clearPulses s)) s.stepping).bounded hs

theorem runHart_idsBounded {h : Nat} {s t : State} (hr : runHart h s = .next t) (hs : IdsBounded s) : IdsBounded t := by
  unfold runHart at hr
  split at hr
  · exact runPacket_idsBounded hr hs
  · cases hr
    exact (HaltsNone.takeException (respond .fail (clearPulses s)) h).bounded hs
  · cases hr

/-- R250: a hart that honours its interrupt notifies, and its id is one that the interrupt set held. -/
theorem honourInterrupt_idsBounded (h : Nat) {s : State} (hs : IdsBounded s) : IdsBounded (honourInterrupt h s) := by
  unfold honourInterrupt
  split
  next hi => exact (HaltsNone.addNotification _ (hs.1 h (List.contains_iff_mem.1 hi))).bounded hs
  next => exact hs

/-- R57 item 6: every step keeps the two sets below `MAX_HARTS`. -/
theorem step_idsBounded {s t : State} (h : step s = .next t) (hs : IdsBounded s) : IdsBounded t := by
  unfold step at h
  split at h
  next => cases h; exact hs
  next p rest hp => exact runPacket_idsBounded h hs
  next k rest hp => exact runHart_idsBounded h hs
  next k rest hp => cases h; exact honourInterrupt_idsBounded (s := { s with pending := rest }) k hs
  next unavailable rest hp => cases h; exact hs
  next k c rest hp => cases h; exact hs

end Sys2Proof.Machine
end

section
/-! SUPPORT. The rows of the slots and of the program-buffer words, and the bytes that both ports see. -/

namespace Sys2Proof.Machine

/-! ## What the rows of one shape do -/

theorem exec_dataWrite {v : Word32} {n : Nat} {i : Instr} (h : (n, i) ∈ dataWrites v) (s : State) :
    n < 8 ∧ exec i s = .next (writeSlot n v s) := by
  simp only [dataWrites, List.mem_cons, Prod.mk.injEq, List.not_mem_nil, or_false] at h
  rcases h with ⟨rfl, rfl⟩ | ⟨rfl, rfl⟩ | ⟨rfl, rfl⟩ | ⟨rfl, rfl⟩ | ⟨rfl, rfl⟩ | ⟨rfl, rfl⟩ | ⟨rfl, rfl⟩ | ⟨rfl, rfl⟩ <;>
    exact ⟨by decide, rfl⟩

theorem exec_dataRead {n : Nat} {i : Instr} (h : (n, i) ∈ dataReads) (s : State) :
    n < 8 ∧ exec i s = .next (readSlot n s) := by
  simp only [dataReads, List.mem_cons, Prod.mk.injEq, List.not_mem_nil, or_false] at h
  rcases h with ⟨rfl, rfl⟩ | ⟨rfl, rfl⟩ | ⟨rfl, rfl⟩ | ⟨rfl, rfl⟩ | ⟨rfl, rfl⟩ | ⟨rfl, rfl⟩ | ⟨rfl, rfl⟩ | ⟨rfl, rfl⟩ <;>
    exact ⟨by decide, rfl⟩

theorem exec_progbufWrite {v : Word32} {n : Nat} {i : Instr} (h : (n, i) ∈ progbufWrites v) (s : State) :
    n < 8 ∧ exec i s = .next (writeProgbufWord n v s) := by
  simp only [progbufWrites, List.mem_cons, Prod.mk.injEq, List.not_mem_nil, or_false] at h
  rcases h with ⟨rfl, rfl⟩ | ⟨rfl, rfl⟩ | ⟨rfl, rfl⟩ | ⟨rfl, rfl⟩ | ⟨rfl, rfl⟩ | ⟨rfl, rfl⟩ | ⟨rfl, rfl⟩ | ⟨rfl, rfl⟩ <;>
    exact ⟨by decide, rfl⟩

theorem exec_progbufRead {n : Nat} {i : Instr} (h : (n, i) ∈ progbufReads) (s : State) :
    n < 8 ∧ exec i s = .next (readProgbufWord n s) := by
  simp only [progbufReads, List.mem_cons, Prod.mk.injEq, List.not_mem_nil, or_false] at h
  rcases h with ⟨rfl, rfl⟩ | ⟨rfl, rfl⟩ | ⟨rfl, rfl⟩ | ⟨rfl, rfl⟩ | ⟨rfl, rfl⟩ | ⟨rfl, rfl⟩ | ⟨rfl, rfl⟩ | ⟨rfl, rfl⟩ <;>
    exact ⟨by decide, rfl⟩

/-! ## The bytes after a write -/

/-- R46, R220: the exchange buffer serves the four bytes of slot `n`. -/
theorem regionOf_slot {n : Nat} (lt : n < 8) : regionOf (dataOffset n) 4 = some .exch :=
  (regionOf_eq_some _ _ _).2 (by simp only [dataOffset, Config.exchOff, regionBase, regionSize]; omega)

/-- R47, R220: the program buffer serves the four bytes of word `n`. -/
theorem regionOf_progbufWord {n : Nat} (lt : n < 8) : regionOf (progbufOffset n) 4 = some .progbuf :=
  (regionOf_eq_some _ _ _).2 (by simp only [progbufOffset, Config.progbufOff, regionBase, regionSize]; omega)

theorem readByte_respond (r : Response) (s : State) (a : Nat) : readByte (respond r s) a = readByte s a := rfl

theorem readByte_stage (words : List Word32) (c : Word32) (h : Nat) (s : State) (a : Nat) :
    readByte (stage words c h s) a = readByte (writeEntry words s) a := rfl

/-- R192: a command writes bytes of the entry region only. -/
theorem readByte_perform_of_beyond (c : Word32) (s : State) {a : Nat} (ha : 0x10 ≤ a) :
    readByte (perform c s) a = readByte s a := by
  rcases perform_cases c s with ⟨-, h⟩ | ⟨-, -, h⟩ | ⟨-, -, e, -, h⟩ | ⟨-, -, h⟩ | ⟨-, -, -, h⟩ <;> rw [h]
  case inr.inr.inr.inr =>
    have hlen := compose_length s.params c
    rw [readByte_stage, readByte_writeEntry_of_beyond _ _ a (by omega)]
    rfl
  all_goals rfl

/-- R150: the word of a slot write stands in the slot whether or not the write replays a command. -/
theorem readByte_storeSlot_of_beyond (n : Nat) (v : Word32) (s : State) {a : Nat} (ha : 0x10 ≤ a) :
    readByte (storeSlot n v s) a = readByte (write32 s (dataOffset n) v) a := by
  unfold storeSlot
  simp only
  split
  · exact readByte_perform_of_beyond _ _ ha
  · rfl

/-- R85: the four bytes of a word written, in any state that holds them. -/
theorem readBytes_of_write32 {s t : State} {off : Nat} {v : Word32}
    (h : ∀ a, off ≤ a → readByte t a = readByte (write32 s off v) a) : readBytes t off 4 = littleEndian 4 v := by
  calc readBytes t off 4
      = readBytes (write32 s off v) off 4 := List.map_congr_left fun i _ => h (off + i) (by omega)
    _ = littleEndian 4 v := readBytes_writeBytes s off (littleEndian 4 v)

/-! ## A word from one port to the other -/

theorem busLoadFrom_response {r : Region} {off len : Nat} (h : regionOf off len = some r) (s : State) :
    (busLoadFrom r off len s).response = .bytes (readBytes s off len) := by
  rw [busLoadFrom, if_pos h]; rfl

/-- R226: a word stored where a writable region serves it is written. -/
theorem busStoreTo_word {r : Region} {off : Nat} (v : Word32) (h : regionOf off 4 = some r) (hw : regionWritable r = true)
    (s : State) : busStoreTo r off (littleEndian 4 v) s = respond .ok (write32 s off v) :=
  if_pos ⟨h, hw⟩

/-- R149, R151: a DMI read after a word was stored returns the word, for `Sync()` touches no byte. -/
theorem dmiRead_of_write32 (s : State) (off : Nat) (v : Word32) (r : Response) :
    (dmiRead (fun s => read32 s off) (respond r (write32 s off v))).response = .word v := by
  have hword : read32 (sync (clearPulses (respond r (write32 s off v)))) off = read32 (write32 s off v) off :=
    read32_congr (write32 s off v) _ off fun _ _ =>
      ((syncedOnly_sync (respond r (write32 s off v))).storage _).trans (readByte_respond r _ _)
  rw [dmiRead, respond_response, hword, read32_write32]

/-! ## The constant regions -/

theorem mem_of_lookupKey {α : Type} {l : List (Nat × α)} {k : Nat} {v : α} (h : lookupKey l k = some v) : (k, v) ∈ l := by
  induction l with
  | nil => cases h
  | cons c rest ih =>
    obtain ⟨j, w⟩ := c
    simp only [lookupKey] at h
    split at h
    next hj => cases h; subst hj; exact List.mem_cons_self
    next => exact List.mem_cons_of_mem _ (ih h)

/-- Log 15: in canonical form a byte that is no state is what its offset reads as when it is not listed. -/
theorem readByte_of_not_listable {s : State} (hc : CanonicalForm s) {a : Nat} (ha : listable a = false) :
    readByte s a = unlisted s a := by
  have hnone : lookupKey s.mem a = none := by
    refine Option.eq_none_iff_forall_ne_some.2 fun b hb => ?_
    have hall := hc.memory
    simp only [Memory.wf, Bool.and_eq_true, List.all_eq_true] at hall
    have hlisted : listable a = true := (hall.2 _ (mem_of_lookupKey hb)).1
    exact Bool.false_ne_true (ha.symm.trans hlisted)
  rw [readByte, hnone, Option.getD_none]

end Sys2Proof.Machine
end

section
/-! The statements of 10_state.md, settled. -/

namespace Sys2Proof.Machine

/-- Settles O50: a step is one event of the engine, the events keep items 1 to 5 and 7, and the tracker keeps item 6. -/
theorem everyStepKeepsTheInvariants : Obligations.EveryStepKeepsTheInvariants := by
  intro s t inv h
  obtain ⟨ev, hstep⟩ := step_engineStep h
  obtain ⟨hinterrupt, hnotification⟩ := step_idsBounded h ⟨inv.interruptBelow, inv.notificationBelow⟩
  exact {
    busyIffStaged := hstep.busyIffStaged inv.busyIffStaged
    entryAtTemplate := hstep.entryAtTemplate inv.entryAtTemplate
    entryHoldsAction := hstep.entryHoldsAction inv.entryAtTemplate inv.entryHoldsAction
    busyErrorOnly := hstep.busyErrorOnly inv.busyErrorOnly
    constantsHold := hstep.constantsHold inv.constantsHold
    interruptBelow := hinterrupt
    notificationBelow := hnotification
    unrecordedIsZero := hstep.unrecordedIsZero inv.unrecordedIsZero }

/-- Settles O55: of the events of the engine only a completion, a fault and a reset end a flight, and no command is recorded
or staged during one. -/
theorem onlyCompletionOrResetEndsAFlight : Obligations.OnlyCompletionOrResetEndsAFlight := by
  intro i s t h hb
  obtain ⟨ev, hcause, hstep⟩ := (executes_of_exec h).causesStep
  refine ⟨fun ht => ?_, fun ht => ?_⟩
  · rw [hstep.busy] at ht
    cases ev with
    | quiet | clear | refused | recorded => exact absurd (hb.symm.trans ht) Bool.noConfusion
    | staged => exact absurd ht Bool.noConfusion
    | completed => exact hcause.elim (fun e => .inr (.inl e)) fun hhart => .inr (.inr (.inr (.inr hhart)))
    | faulted => exact hcause.elim (fun e => .inr (.inr (.inl e))) fun hhart => .inr (.inr (.inr (.inr hhart)))
    | reset => exact hcause.imp_right fun hdm => .inr (.inr (.inl hdm))
  · rw [hstep.busy] at ht
    rw [hstep.nextAction, hstep.actionExecuted]
    cases ev with
    | quiet | clear | refused => exact ⟨rfl, rfl, fun a ha => hstep.entry ha⟩
    | recorded | staged => exact absurd (hb.symm.trans hstep.enabled.1) Bool.noConfusion
    | completed | faulted | reset => exact absurd ht Bool.noConfusion

/-- Settles O57: of the events of the engine only the clearing write, a reset, a refused command and a fault change an error
that stands. -/
theorem commandErrorIsSticky : Obligations.CommandErrorIsSticky := by
  intro i s t h hs hne
  obtain ⟨ev, hcause, hstep⟩ := (executes_of_exec h).causesStep
  have ht := hstep.cmderr
  cases ev with
  | quiet | completed => exact absurd ht hne
  | clear mask =>
    obtain ⟨v, rfl, rfl⟩ := hcause
    have hcleared : t.cmderr = clearedCmderr s.cmderr (clearMask v) := ht
    unfold clearedCmderr at hcleared
    split at hcleared
    next hmask => exact .inl ⟨hcleared, .inr (.inr ⟨v, rfl, hmask⟩)⟩
    next => exact absurd hcleared hne
  | refused => exact .inr (.inl ⟨hstep.enabled, ht, hcause⟩)
  | recorded => exact absurd hstep.enabled.2 hs
  | staged => exact absurd hstep.enabled.2.1 hs
  | faulted => exact .inr (.inr ⟨hstep.enabled, ht, hcause⟩)
  | reset => exact .inl ⟨ht, hcause.imp_right .inl⟩

/-- Settles O38: a word written at either port stands in its four bytes, and a replayed command writes bytes of the entry
region only. -/
theorem theTwoPortsSeeOneCopy : Obligations.TheTwoPortsSeeOneCopy := by
  refine ⟨fun s v n i hi => ?_, fun s v n i hi => ?_, fun s v n i hi => ?_, fun s v n i hi => ?_⟩
  · obtain ⟨lt, hexec⟩ := exec_progbufWrite hi s
    have hbytes : readBytes (clearPulses (writeProgbufWord n v s)) (progbufOffset n) 4 = littleEndian 4 v :=
      readBytes_of_write32 fun a _ => readByte_congr (write32 (sync (clearPulses s)) _ v) _ rfl rfl rfl a
    exact ⟨_, _, hexec, rfl, (busLoadFrom_response (regionOf_progbufWord lt) _).trans (congrArg Response.bytes hbytes)⟩
  · obtain ⟨lt, hexec⟩ := exec_dataWrite hi s
    have hbytes : readBytes (clearPulses (writeSlot n v s)) (dataOffset n) 4 = littleEndian 4 v :=
      readBytes_of_write32 fun a ha =>
        readByte_storeSlot_of_beyond n v (sync (clearPulses s)) (by simp only [dataOffset, Config.exchOff] at ha; omega)
    exact ⟨_, _, hexec, rfl, (busLoadFrom_response (regionOf_slot lt) _).trans (congrArg Response.bytes hbytes)⟩
  · obtain ⟨lt, hexec⟩ := exec_dataRead hi (respond .ok (write32 (clearPulses s) (dataOffset n) v))
    have hstore := busStoreTo_word v (regionOf_slot lt) rfl (clearPulses s)
    exact ⟨_, _, congrArg Host.Outcome.next hstore, hexec, dmiRead_of_write32 (clearPulses s) (dataOffset n) v .ok⟩
  · obtain ⟨lt, hexec⟩ := exec_progbufRead hi (respond .ok (write32 (clearPulses s) (progbufOffset n) v))
    have hstore := busStoreTo_word v (regionOf_progbufWord lt) rfl (clearPulses s)
    exact ⟨_, _, congrArg Host.Outcome.next hstore, hexec, dmiRead_of_write32 (clearPulses s) (progbufOffset n) v .ok⟩

/-- Settles O54: the offsets of the two regions are not listable, so the canonical form lists none of them. -/
theorem romRegionsAreConstant : Obligations.RomRegionsAreConstant := by
  refine fun s hc => ⟨fun a hlo hhi => ?_, fun a hlo hhi => ?_⟩
  · have hrom : listable a = false := by rw [Bool.eq_false_iff, ne_eq, listable_iff]; omega
    rw [readByte_of_not_listable hc hrom, unlisted, if_neg (by omega), if_pos hhi]
  · have hrom : listable a = false := by rw [Bool.eq_false_iff, ne_eq, listable_iff]; omega
    rw [readByte_of_not_listable hc hrom, unlisted, if_neg (by omega), if_neg (by omega), if_neg (by omega), if_pos hhi]

/-- Settles O56: no instruction records a hart as halted but a DMI transaction, and that by its `Sync()`. -/
theorem haltedIsSetOnlyBySync : Obligations.HaltedIsSetOnlyBySync := by
  intro i s t h hexec hs ht
  rcases (executes_of_exec hexec).haltsNone with hnone | ⟨hdmi, hnone⟩
  · exact absurd (hs.symm.trans (hnone.halted h ht)) Bool.noConfusion
  · have hfolded := hnone.halted h ht
    rw [isHalted_sync, show isHalted (clearPulses s) h = false from hs, Bool.false_or, Bool.and_eq_true] at hfolded
    exact ⟨List.contains_iff_mem.1 hfolded.1, hfolded.2, hdmi⟩

/-- With no cell listed, every byte after power-on is what its offset reads as. -/
theorem readByte_reset (a : Nat) : readByte State.reset a = unlisted State.reset a := rfl

/-- Settles O51: nothing is in flight, no error stands, and no byte of the entry region is listed. -/
theorem resetSatisfiesTheInvariants : Obligations.ResetSatisfiesTheInvariants where
  busyIffStaged := ⟨fun h => absurd h Bool.noConfusion, fun h => absurd rfl h.1⟩
  entryAtTemplate := fun _ a ha => (readByte_reset a).trans (entry_unlisted _ a ha)
  entryHoldsAction := fun h => absurd h Bool.noConfusion
  busyErrorOnly := fun h => absurd h Bool.noConfusion
  constantsHold := ⟨rfl, rfl, rfl, rfl, rfl⟩
  interruptBelow := fun _ h => absurd h List.not_mem_nil
  notificationBelow := fun _ h => absurd h List.not_mem_nil
  unrecordedIsZero := fun _ => rfl

/-- Settles O53: the fields are those of `State.reset`, and the two buffers are unlisted bytes. -/
theorem resetValues : Obligations.ResetValues := by
  have hprogbuf : ∀ a, 0x20 ≤ a → a < 0x40 → readByte State.reset a = 0#8 := fun a hlo hhi => by
    rw [readByte_reset, unlisted, if_neg (by omega), if_neg (by omega), if_pos hhi]
  have hentry : ∀ a, a < 0x10 → readByte State.reset a = imageByte State.reset.params.romEntry.toList a :=
    fun a ha => (readByte_reset a).trans (entry_unlisted _ a ha)
  have hhalted : ∀ h, isHalted State.reset h = false := fun _ => BitVec.getLsbD_zero
  exact ⟨rfl, rfl, rfl, rfl, rfl, rfl, rfl, rfl, rfl, rfl, rfl, rfl, hprogbuf, hentry, hhalted, rfl, rfl, rfl, rfl, rfl⟩

end Sys2Proof.Machine
end

section
/-! SUPPORT. The fields of words put together and cut again, and what the decoder reads, row by row (R110 to R112, R119, R121,
R271). -/

namespace Sys2Proof.Machine

/-! ## Words of fields -/

theorem toNat_append_div {n m : Nat} (k : BitVec n) (low : BitVec m) : (k ++ low).toNat / 2 ^ m = k.toNat := by
  rw [BitVec.toNat_append, ← Nat.shiftLeft_add_eq_or_of_lt low.isLt, Nat.shiftLeft_eq, Nat.mul_comm,
    Nat.mul_add_div (Nat.two_pow_pos m), Nat.div_eq_of_lt low.isLt, Nat.add_zero]

theorem extractLsb'_zero_append {n m : Nat} (k : BitVec n) (low : BitVec m) : (k ++ low).extractLsb' 0 m = low := by
  rw [BitVec.extractLsb'_append_eq_of_add_le (Nat.zero_add m).le, BitVec.extractLsb'_eq_self]

/-- A word is its leading bits followed by the rest of it. -/
theorem append_extractLsb'_zero {n m : Nat} {k : BitVec n} {c : BitVec (n + m)} (h : c.toNat / 2 ^ m = k.toNat) :
    k ++ c.extractLsb' 0 m = c := by
  have hk : c.extractLsb' m n = k := by
    apply BitVec.eq_of_toNat_eq
    rw [BitVec.extractLsb'_toNat, Nat.shiftRight_eq_div_pow, h, Nat.mod_eq_of_lt k.isLt]
  rw [← hk, BitVec.extractLsb'_append_extractLsb']

theorem ofBool_getLsbD {n : Nat} (c : BitVec n) (i : Nat) : BitVec.ofBool (c.getLsbD i) = c.extractLsb' i 1 := by
  ext j hj
  obtain rfl : j = 0 := by omega
  simp [BitVec.getElem_extractLsb']

/-! ## Command words, row by row (R119, R121, R129) -/

variable {c : Word32}

theorem cmdtypeField_toNat (c : Word32) : (c.extractLsb' 24 8).toNat = c.toNat / 2 ^ 24 := by
  rw [BitVec.extractLsb'_toNat, Nat.shiftRight_eq_div_pow, Nat.mod_eq_of_lt (by omega)]

theorem cmdtype_eq (c : Word32) : cmdtype c = c.toNat / 2 ^ 24 := cmdtypeField_toNat c

theorem cmdtypeField_eq_zero (h : cmdtype c = 0) : c.extractLsb' 24 8 = 0#8 := BitVec.eq_of_toNat_eq h

theorem sizeField_eq_iff (c : Word32) (n : BitVec 3) : c.extractLsb' 20 3 = n ↔ size c = n.toNat := BitVec.toNat_inj.symm

/-- R120: the register numbers of the general registers are the 32 that share their leading eleven bits. -/
theorem regnoField_eq_iff (c : Word32) : c.extractLsb' 5 11 = 0x080#11 ↔ 0x1000 ≤ regno c ∧ regno c ≤ 0x101F := by
  rw [← BitVec.toNat_inj, regno, BitVec.extractLsb'_toNat, BitVec.extractLsb'_toNat, Nat.shiftRight_eq_div_pow,
    Nat.shiftRight_eq_div_pow, show (0x080#11).toNat = 0x80 from rfl]
  omega

/-- R129: the range of `cmdtype` that selects a row is told by the word's leading bits. -/
theorem cmdtype_ranges (c : Word32) :
    cmdtype c = 0 ∨ c.toNat / 2 ^ 24 = 1 ∨ c.toNat / 2 ^ 25 = 1 ∨ c.toNat / 2 ^ 26 = 1 ∨ c.toNat / 2 ^ 27 = 1 ∨
      c.toNat / 2 ^ 28 = 1 ∨ c.toNat / 2 ^ 29 = 1 ∨ c.toNat / 2 ^ 30 = 1 ∨ c.toNat / 2 ^ 31 = 1 := by
  have := cmdtype_eq c
  omega

theorem decodeCommand_transfer (h : cmdtype c = 0) (ht : transfer c = true) : decodeCommand c = decodeTransfer c :=
  (if_pos h).trans (if_pos ht)

theorem decodeCommand_exec (h : cmdtype c = 0) (ht : transfer c = false) (hp : postexec c = true) :
    decodeCommand c = .arExec (c.extractLsb' 19 5) (c.extractLsb' 0 17) :=
  (if_pos h).trans ((if_neg (Bool.eq_false_iff.1 ht)).trans (if_pos hp))

theorem decodeCommand_nop (h : cmdtype c = 0) (ht : transfer c = false) (hp : postexec c = false) :
    decodeCommand c = .arNop (c.extractLsb' 19 5) (c.extractLsb' 0 17) :=
  (if_pos h).trans ((if_neg (Bool.eq_false_iff.1 ht)).trans (if_neg (Bool.eq_false_iff.1 hp)))

theorem decodeCommand_quick (h : c.toNat / 2 ^ 24 = 1) : decodeCommand c = .quick (c.extractLsb' 0 24) := by
  simp (disch := omega) only [decodeCommand, cmdtypeField_toNat, if_pos, if_neg]

theorem decodeCommand_unknown2_3 (h : c.toNat / 2 ^ 25 = 1) : decodeCommand c = .unknown2_3 (c.extractLsb' 0 25) := by
  simp (disch := omega) only [decodeCommand, cmdtypeField_toNat, if_pos, if_neg]

theorem decodeCommand_unknown4_7 (h : c.toNat / 2 ^ 26 = 1) : decodeCommand c = .unknown4_7 (c.extractLsb' 0 26) := by
  simp (disch := omega) only [decodeCommand, cmdtypeField_toNat, if_pos, if_neg]

theorem decodeCommand_unknown8_15 (h : c.toNat / 2 ^ 27 = 1) : decodeCommand c = .unknown8_15 (c.extractLsb' 0 27) := by
  simp (disch := omega) only [decodeCommand, cmdtypeField_toNat, if_pos, if_neg]

theorem decodeCommand_unknown16_31 (h : c.toNat / 2 ^ 28 = 1) : decodeCommand c = .unknown16_31 (c.extractLsb' 0 28) := by
  simp (disch := omega) only [decodeCommand, cmdtypeField_toNat, if_pos, if_neg]

theorem decodeCommand_unknown32_63 (h : c.toNat / 2 ^ 29 = 1) : decodeCommand c = .unknown32_63 (c.extractLsb' 0 29) := by
  simp (disch := omega) only [decodeCommand, cmdtypeField_toNat, if_pos, if_neg]

theorem decodeCommand_unknown64_127 (h : c.toNat / 2 ^ 30 = 1) : decodeCommand c = .unknown64_127 (c.extractLsb' 0 30) := by
  simp (disch := omega) only [decodeCommand, cmdtypeField_toNat, if_pos, if_neg]

theorem decodeCommand_unknown128_255 (h : c.toNat / 2 ^ 31 = 1) : decodeCommand c = .unknown128_255 (c.extractLsb' 0 31) := by
  simp (disch := omega) only [decodeCommand, cmdtypeField_toNat, if_neg]

/-! ## The transfer rows (R120, R121, R194 to R197, R200) -/

theorem accessSupported_low (c : Word32) : accessSupported (c.extractLsb' 0 24) = true ↔
    c.extractLsb' 5 11 = 0x080#11 ∧ (c.extractLsb' 20 3 = 2#3 ∨ c.extractLsb' 20 3 = 3#3) := by
  rw [accessSupported, BitVec.extractLsb'_extractLsb'_of_le (by decide), BitVec.extractLsb'_extractLsb'_of_le (by decide)]
  simp only [Bool.and_eq_true, Bool.or_eq_true, beq_iff_eq]

theorem decodeTransfer_size2 (hr : c.extractLsb' 5 11 = 0x080#11) (hs : c.extractLsb' 20 3 = 2#3) :
    decodeTransfer c =
      if write c then .arWrite32 (c.getLsbD 23) (c.getLsbD 19) (postexec c) (c.extractLsb' 0 5)
      else .arRead32 (c.getLsbD 23) (c.getLsbD 19) (postexec c) (c.extractLsb' 0 5) := by
  rw [decodeTransfer, if_pos hr, if_pos hs]
  rfl

theorem decodeTransfer_size3 (hr : c.extractLsb' 5 11 = 0x080#11) (hs : c.extractLsb' 20 3 = 3#3) :
    decodeTransfer c =
      if write c then .arWrite64 (c.getLsbD 23) (c.getLsbD 19) (postexec c) (c.extractLsb' 0 5)
      else .arRead64 (c.getLsbD 23) (c.getLsbD 19) (postexec c) (c.extractLsb' 0 5) := by
  rw [decodeTransfer, if_pos hr, if_neg (by rw [hs]; decide), if_pos hs]
  rfl

theorem decodeTransfer_unsupported (h : ¬ accessSupported (c.extractLsb' 0 24) = true) :
    decodeTransfer c = .arUnsup (c.extractLsb' 0 24) := by
  rw [accessSupported_low] at h
  by_cases hr : c.extractLsb' 5 11 = 0x080#11
  · rw [decodeTransfer, if_pos hr, if_neg fun h2 => h ⟨hr, .inl h2⟩, if_neg fun h3 => h ⟨hr, .inr h3⟩]
  · rw [decodeTransfer, if_neg hr]

/-! ## Command words put together (R119) -/

theorem transferWord_of_fields (h : cmdtype c = 0) (ht : transfer c = true) (hr : c.extractLsb' 5 11 = 0x080#11) :
    transferWord (c.extractLsb' 20 3) (write c) (c.getLsbD 23) (c.getLsbD 19) (postexec c) (c.extractLsb' 0 5) = c := by
  have htransfer : 1#1 = c.extractLsb' 17 1 := by rw [← ofBool_getLsbD, show c.getLsbD 17 = true from ht]; rfl
  rw [transferWord, htransfer, ← hr, ← cmdtypeField_eq_zero h, write, postexec]
  simp (disch := rfl) only [ofBool_getLsbD, BitVec.extractLsb'_append_extractLsb'_eq_extractLsb']
  exact BitVec.extractLsb'_eq_self

theorem executeWord_of_fields (h : cmdtype c = 0) (ht : transfer c = false) :
    executeWord (postexec c) (c.extractLsb' 19 5) (c.extractLsb' 0 17) = c := by
  have htransfer : 0#1 = c.extractLsb' 17 1 := by rw [← ofBool_getLsbD, show c.getLsbD 17 = false from ht]; rfl
  rw [executeWord, htransfer, ← cmdtypeField_eq_zero h, postexec]
  simp (disch := rfl) only [ofBool_getLsbD, BitVec.extractLsb'_append_extractLsb'_eq_extractLsb']
  exact BitVec.extractLsb'_eq_self

/-! ## Command words read back -/

/-- A row that keeps every bit below its fixed ones keeps the operand that was put there. -/
theorem some_eq_of_row_append {n m : Nat} {k : BitVec n} {low : BitVec m} {row : BitVec m → Instr} {i : Instr}
    (h : i = row ((k ++ low).extractLsb' 0 m)) : some i = some (row low) := by
  rw [h, extractLsb'_zero_append]

theorem cmdtype_zero_append (low : BitVec 24) : cmdtype (0#8 ++ low) = 0 :=
  (cmdtype_eq _).trans (toNat_append_div 0#8 low)

theorem transfer_zero_append (low : BitVec 24) : transfer (0#8 ++ low) = low.getLsbD 17 :=
  BitVec.getLsbD_append.trans (if_pos (by decide))

theorem cmdtype_transferWord (sz : BitVec 3) (w b23 b19 p : Bool) (r : BitVec 5) :
    cmdtype (transferWord sz w b23 b19 p r) = 0 := by
  simp (disch := decide) only [cmdtype, transferWord, BitVec.extractLsb'_append_eq_of_le, BitVec.extractLsb'_eq_self,
    Nat.reduceSub]
  rfl

theorem transfer_transferWord (sz : BitVec 3) (w b23 b19 p : Bool) (r : BitVec 5) :
    transfer (transferWord sz w b23 b19 p r) = true := by
  simp (disch := decide) only [transfer, transferWord, BitVec.getLsbD_append, if_pos, if_neg, Nat.reduceSub]
  rfl

/-- The decoder finds each field of an access word where `transferWord` puts it. -/
theorem decodeTransfer_transferWord (sz : BitVec 3) (w b23 b19 p : Bool) (r : BitVec 5) :
    decodeTransfer (transferWord sz w b23 b19 p r) =
      if sz = 2#3 then if w then .arWrite32 b23 b19 p r else .arRead32 b23 b19 p r
      else if sz = 3#3 then if w then .arWrite64 b23 b19 p r else .arRead64 b23 b19 p r
      else .arUnsup ((transferWord sz w b23 b19 p r).extractLsb' 0 24) := by
  simp (disch := decide) only [decodeTransfer, transferWord, BitVec.extractLsb'_append_eq_of_le,
    BitVec.extractLsb'_append_eq_of_add_le, BitVec.extractLsb'_eq_self, BitVec.getLsbD_append, if_pos, if_neg, Nat.reduceSub]
  simp only [BitVec.getLsbD_ofBool, decide_true, Bool.true_and]

theorem decodeCommand_transferWord (sz : BitVec 3) (w b23 b19 p : Bool) (r : BitVec 5) :
    decodeCommand (transferWord sz w b23 b19 p r) = decodeTransfer (transferWord sz w b23 b19 p r) :=
  decodeCommand_transfer (cmdtype_transferWord sz w b23 b19 p r) (transfer_transferWord sz w b23 b19 p r)

theorem decodeCommand_executeWord (p : Bool) (hi : BitVec 5) (lo : BitVec 17) :
    decodeCommand (executeWord p hi lo) = if p then .arExec hi lo else .arNop hi lo := by
  have hlo : (executeWord p hi lo).extractLsb' 0 17 = lo := extractLsb'_zero_append _ lo
  have hhi : (executeWord p hi lo).extractLsb' 19 5 = hi := by
    simp (disch := decide) only [executeWord, BitVec.extractLsb'_append_eq_of_le, BitVec.extractLsb'_append_eq_of_add_le,
      BitVec.extractLsb'_eq_self, Nat.reduceSub]
  have hcmdtype : cmdtype (executeWord p hi lo) = 0 := by
    simp (disch := decide) only [cmdtype, executeWord, BitVec.extractLsb'_append_eq_of_le, BitVec.extractLsb'_eq_self,
      Nat.reduceSub]
    rfl
  have htransfer : transfer (executeWord p hi lo) = false := by
    simp (disch := decide) only [transfer, executeWord, BitVec.getLsbD_append, if_neg, if_pos, Nat.reduceSub]
    rfl
  have hpostexec : postexec (executeWord p hi lo) = p := by
    simp (disch := decide) only [postexec, executeWord, BitVec.getLsbD_append, if_neg, if_pos, Nat.reduceSub]
    cases p <;> rfl
  cases p with
  | false => rw [decodeCommand_nop hcmdtype htransfer hpostexec, hhi, hlo]; rfl
  | true => rw [decodeCommand_exec hcmdtype htransfer hpostexec, hhi, hlo]; rfl

theorem decodeCommand_unsupported {low : BitVec 24} (ht : low.getLsbD 17 = true) (h : ¬ accessSupported low = true) :
    decodeCommand (0#8 ++ low) = .arUnsup low := by
  have hlow : (0#8 ++ low).extractLsb' 0 24 = low := extractLsb'_zero_append 0#8 low
  rw [decodeCommand_transfer (cmdtype_zero_append low) ((transfer_zero_append low).trans ht)]
  exact (decodeTransfer_unsupported (c := 0#8 ++ low) (hlow.symm ▸ h)).trans (congrArg _ hlow)

/-! ## Instruction words (R271 to R278) -/

theorem decodeHart_jal {w : Word32} (h : w.extractLsb' 0 12 = 0x06F#12) : decodeHart w = some (.jal (immJ w)) := by
  have hne : w ≠ 0x00100073#32 := by rintro rfl; exact absurd h (by decide)
  rw [decodeHart, if_neg hne, if_pos h]

theorem not_jal_of_opcode {w : Word32} {op : BitVec 7} (h : w.extractLsb' 0 7 = op) (hop : op ≠ 0x6F#7) :
    w.extractLsb' 0 12 ≠ 0x06F#12 := by
  intro hj
  rw [← BitVec.extractLsb'_extractLsb'_of_le (len' := 12) (by decide), hj] at h
  exact hop h.symm

theorem not_ebreak_of_opcode {w : Word32} {op : BitVec 7} (h : w.extractLsb' 0 7 = op) (hop : op ≠ 0x73#7) :
    w ≠ 0x00100073#32 := by
  rintro rfl
  exact hop h.symm

theorem decodeHart_store {w : Word32} (h : w.extractLsb' 0 7 = 0x23#7) :
    decodeHart w =
      if w.extractLsb' 12 3 = 2#3 then some (.sw (immS w) (w.extractLsb' 20 5) (w.extractLsb' 15 5))
      else if w.extractLsb' 12 3 = 3#3 then some (.sd (immS w) (w.extractLsb' 20 5) (w.extractLsb' 15 5))
      else none := by
  rw [decodeHart, if_neg (not_ebreak_of_opcode h (by decide)), if_neg (not_jal_of_opcode h (by decide)), if_pos h]

theorem decodeHart_load {w : Word32} (h : w.extractLsb' 0 7 = 0x03#7) :
    decodeHart w =
      if w.extractLsb' 12 3 = 2#3 then some (.lw (immI w) (w.extractLsb' 15 5) (w.extractLsb' 7 5))
      else if w.extractLsb' 12 3 = 3#3 then some (.ld (immI w) (w.extractLsb' 15 5) (w.extractLsb' 7 5))
      else none := by
  rw [decodeHart, if_neg (not_ebreak_of_opcode h (by decide)), if_neg (not_jal_of_opcode h (by decide)),
    if_neg (by rw [h]; decide), if_pos h]

theorem decodeHart_sTypeWord (imm : BitVec 12) (rs2 rs1 : BitVec 5) (f3 : BitVec 3) :
    decodeHart (sTypeWord imm rs2 rs1 f3) =
      if f3 = 2#3 then some (.sw imm rs2 rs1) else if f3 = 3#3 then some (.sd imm rs2 rs1) else none := by
  have hop : (sTypeWord imm rs2 rs1 f3).extractLsb' 0 7 = 0x23#7 := extractLsb'_zero_append _ _
  rw [decodeHart_store hop]
  simp (disch := decide) only [sTypeWord, immS, BitVec.extractLsb'_append_eq_of_le, BitVec.extractLsb'_append_eq_of_add_le,
    BitVec.extractLsb'_append_extractLsb'_eq_extractLsb', BitVec.extractLsb'_eq_self, Nat.reduceSub]

theorem decodeHart_iTypeWord (imm : BitVec 12) (rs1 rd : BitVec 5) (f3 : BitVec 3) :
    decodeHart (iTypeWord imm rs1 rd f3) =
      if f3 = 2#3 then some (.lw imm rs1 rd) else if f3 = 3#3 then some (.ld imm rs1 rd) else none := by
  have hop : (iTypeWord imm rs1 rd f3).extractLsb' 0 7 = 0x03#7 := extractLsb'_zero_append _ _
  rw [decodeHart_load hop]
  simp (disch := decide) only [iTypeWord, immI, BitVec.extractLsb'_append_eq_of_le, BitVec.extractLsb'_append_eq_of_add_le,
    BitVec.extractLsb'_eq_self, Nat.reduceSub]

theorem immJ_jalWord {imm : BitVec 21} (h : imm.getLsbD 0 = false) : immJ (jalWord imm) = imm := by
  have hzero : 0#1 = imm.extractLsb' 0 1 := by rw [← ofBool_getLsbD, h]; rfl
  simp (disch := decide) only [immJ, jalWord, BitVec.extractLsb'_append_eq_of_le, BitVec.extractLsb'_append_eq_of_add_le,
    BitVec.extractLsb'_eq_self, Nat.reduceSub]
  rw [hzero]
  simp (disch := rfl) only [BitVec.extractLsb'_append_extractLsb'_eq_extractLsb']
  exact BitVec.extractLsb'_eq_self

theorem decodeHart_jalWord {imm : BitVec 21} (h : imm.getLsbD 0 = false) : decodeHart (jalWord imm) = some (.jal imm) := by
  have hop : (jalWord imm).extractLsb' 0 12 = 0x06F#12 := by
    rw [← BitVec.extractLsb'_append_extractLsb'_eq_extractLsb' (start₁ := 0) (len₁ := 7) (start₂ := 7) (len₂ := 5) rfl]
    simp (disch := decide) only [jalWord, BitVec.extractLsb'_append_eq_of_le, BitVec.extractLsb'_append_eq_of_add_le,
      BitVec.extractLsb'_eq_self, Nat.reduceSub]
    rfl
  rw [decodeHart_jal hop, immJ_jalWord h]

/-! ## BUS headers (R111) -/

theorem firstByteIn_iff {base size off : Nat} : firstByteIn base size off = true ↔ base ≤ off ∧ off < base + size := by
  rw [firstByteIn, Bool.and_eq_true, decide_eq_true_eq, decide_eq_true_eq]

end Sys2Proof.Machine
end

section
/-! The statements of 30_encoding.md, settled. -/

namespace Sys2Proof.Machine

/-- Settles O1: port by port, the fields that the decoder cuts out of the encoded request are the operands. -/
theorem decodeOfEncode : Obligations.DecodeOfEncode := by
  intro i hwf
  cases i with
  | dmiReadData0 | dmiWriteData0 | dmiReadData1 | dmiWriteData1 | dmiReadData2 | dmiWriteData2 | dmiReadData3
  | dmiWriteData3 | dmiReadData4 | dmiWriteData4 | dmiReadData5 | dmiWriteData5 | dmiReadData6 | dmiWriteData6
  | dmiReadData7 | dmiWriteData7 | dmiReadDmcontrol | dmiWriteDmcontrol | dmiReadAbstractcs | dmiWriteAbstractcs
  | dmiReadCommand | dmiWriteCommand | dmiReadProgbuf0 | dmiWriteProgbuf0 | dmiReadProgbuf1 | dmiWriteProgbuf1
  | dmiReadProgbuf2 | dmiWriteProgbuf2 | dmiReadProgbuf3 | dmiWriteProgbuf3 | dmiReadProgbuf4 | dmiWriteProgbuf4
  | dmiReadProgbuf5 | dmiWriteProgbuf5 | dmiReadProgbuf6 | dmiWriteProgbuf6 | dmiReadProgbuf7 | dmiWriteProgbuf7 => rfl
  | arRead32 | arWrite32 | arRead64 | arWrite64 =>
    exact congrArg some ((decodeCommand_transferWord ..).trans (decodeTransfer_transferWord ..))
  | arExec | arNop => exact congrArg some (decodeCommand_executeWord ..)
  | arUnsup low =>
    obtain ⟨ht, hsup⟩ := Bool.and_eq_true_iff.1 hwf
    exact congrArg some (decodeCommand_unsupported ht (by simpa using hsup))
  | quick low => exact some_eq_of_row_append (decodeCommand_quick (toNat_append_div 1#8 low))
  | unknown2_3 low => exact some_eq_of_row_append (decodeCommand_unknown2_3 (toNat_append_div 1#7 low))
  | unknown4_7 low => exact some_eq_of_row_append (decodeCommand_unknown4_7 (toNat_append_div 1#6 low))
  | unknown8_15 low => exact some_eq_of_row_append (decodeCommand_unknown8_15 (toNat_append_div 1#5 low))
  | unknown16_31 low => exact some_eq_of_row_append (decodeCommand_unknown16_31 (toNat_append_div 1#4 low))
  | unknown32_63 low => exact some_eq_of_row_append (decodeCommand_unknown32_63 (toNat_append_div 1#3 low))
  | unknown64_127 low => exact some_eq_of_row_append (decodeCommand_unknown64_127 (toNat_append_div 1#2 low))
  | unknown128_255 low => exact some_eq_of_row_append (decodeCommand_unknown128_255 (toNat_append_div 1#1 low))
  | loadEntry | loadExc | loadProgbuf | loadCode | loadExch =>
    obtain ⟨hlo, hhi⟩ := firstByteIn_iff.1 hwf
    simp (disch := omega) only [encode, decode, decodeLoad, if_pos, if_neg]
  | storeEntry | storeExc | storeProgbuf | storeCode | storeExch =>
    obtain ⟨hlo, hhi⟩ := firstByteIn_iff.1 hwf
    simp (disch := omega) only [encode, decode, decodeStore, if_pos, if_neg]
  | setInterrupt | clearInterrupt | getInterrupt | setHaltNotification | clearHaltNotification | getHaltNotification
  | actionExecuted | actionFaulted | powerOn => rfl
  | sw imm rs2 rs1 => exact decodeHart_sTypeWord imm rs2 rs1 2#3
  | sd imm rs2 rs1 => exact decodeHart_sTypeWord imm rs2 rs1 3#3
  | lw imm rs1 rd => exact decodeHart_iTypeWord imm rs1 rd 2#3
  | ld imm rs1 rd => exact decodeHart_iTypeWord imm rs1 rd 3#3
  | ebreak => rfl
  | jal imm => exact decodeHart_jalWord (by simpa [Instr.wf] using hwf)

/-- Settles O2: the fields that the row keeps are the word's own, and those it fixes are what selected the row. -/
theorem commandWordsKeepEveryBit : Obligations.CommandWordsKeepEveryBit := by
  intro c
  rcases cmdtype_ranges c with h0 | h | h | h | h | h | h | h | h
  case inl =>
    cases ht : transfer c with
    | false =>
      have hword := executeWord_of_fields h0 ht
      cases hp : postexec c with
      | false => rw [decodeCommand_nop h0 ht hp]; exact ⟨rfl, congrArg Packet.command (hp ▸ hword)⟩
      | true => rw [decodeCommand_exec h0 ht hp]; exact ⟨rfl, congrArg Packet.command (hp ▸ hword)⟩
    | true =>
      rw [decodeCommand_transfer h0 ht]
      by_cases hsup : accessSupported (c.extractLsb' 0 24) = true
      · obtain ⟨hr, hs⟩ := (accessSupported_low c).1 hsup
        have hword := transferWord_of_fields h0 ht hr
        rcases hs with hs | hs
        · rw [decodeTransfer_size2 hr hs]
          cases hw : write c <;> exact ⟨rfl, congrArg Packet.command (hs ▸ hw ▸ hword)⟩
        · rw [decodeTransfer_size3 hr hs]
          cases hw : write c <;> exact ⟨rfl, congrArg Packet.command (hs ▸ hw ▸ hword)⟩
      · rw [decodeTransfer_unsupported hsup]
        have h17 : (c.extractLsb' 0 24).getLsbD 17 = true := by rw [BitVec.getLsbD_extractLsb']; exact ht
        have hzero : c.toNat / 2 ^ 24 = (0#8).toNat := (cmdtype_eq c).symm.trans h0
        refine ⟨?_, congrArg Packet.command (append_extractLsb'_zero hzero)⟩
        rw [Instr.wf, h17, Bool.eq_false_iff.2 hsup]
        rfl
  · rw [decodeCommand_quick h]; exact ⟨rfl, congrArg Packet.command (append_extractLsb'_zero h)⟩
  · rw [decodeCommand_unknown2_3 h]; exact ⟨rfl, congrArg Packet.command (append_extractLsb'_zero h)⟩
  · rw [decodeCommand_unknown4_7 h]; exact ⟨rfl, congrArg Packet.command (append_extractLsb'_zero h)⟩
  · rw [decodeCommand_unknown8_15 h]; exact ⟨rfl, congrArg Packet.command (append_extractLsb'_zero h)⟩
  · rw [decodeCommand_unknown16_31 h]; exact ⟨rfl, congrArg Packet.command (append_extractLsb'_zero h)⟩
  · rw [decodeCommand_unknown32_63 h]; exact ⟨rfl, congrArg Packet.command (append_extractLsb'_zero h)⟩
  · rw [decodeCommand_unknown64_127 h]; exact ⟨rfl, congrArg Packet.command (append_extractLsb'_zero h)⟩
  · rw [decodeCommand_unknown128_255 h]; exact ⟨rfl, congrArg Packet.command (append_extractLsb'_zero h)⟩

/-- Settles O4: each clause is the decoder's equation for that row, its hypotheses read as fields of the word. -/
theorem commandClasses : Obligations.CommandClasses := by
  intro c
  have hc := cmdtype_eq c
  refine ⟨fun h0 ht hlo hhi hs => ?_, fun h0 ht hlo hhi hs => ?_, fun h0 ht hout => ?_,
    fun h0 ht hp => decodeCommand_exec h0 ht hp, fun h0 ht hp => decodeCommand_nop h0 ht hp,
    fun h => decodeCommand_quick (by omega), fun _ _ => decodeCommand_unknown2_3 (by omega),
    fun _ _ => decodeCommand_unknown4_7 (by omega), fun _ _ => decodeCommand_unknown8_15 (by omega),
    fun _ _ => decodeCommand_unknown16_31 (by omega), fun _ _ => decodeCommand_unknown32_63 (by omega),
    fun _ _ => decodeCommand_unknown64_127 (by omega), fun _ => decodeCommand_unknown128_255 (by omega)⟩
  · rw [decodeCommand_transfer h0 ht]
    exact decodeTransfer_size2 ((regnoField_eq_iff c).2 ⟨hlo, hhi⟩) ((sizeField_eq_iff c 2#3).2 hs)
  · rw [decodeCommand_transfer h0 ht]
    exact decodeTransfer_size3 ((regnoField_eq_iff c).2 ⟨hlo, hhi⟩) ((sizeField_eq_iff c 3#3).2 hs)
  · rw [decodeCommand_transfer h0 ht]
    refine decodeTransfer_unsupported fun hsup => ?_
    rw [accessSupported_low, regnoField_eq_iff, sizeField_eq_iff, sizeField_eq_iff] at hsup
    simp only [BitVec.toNat_ofNat] at hsup
    omega

/-- Settles O5: the decoder runs on each of the 22 requests. -/
theorem specWordsDecode : Obligations.SpecWordsDecode := by
  unfold Obligations.SpecWordsDecode
  decide

end Sys2Proof.Machine
end

section
/-! SUPPORT. A DMI transaction in the terms of Safety.lean: what a read answers, what a write leaves of the state around its
effect, and which addresses the decoder knows (R81, R140, R153). -/

namespace Sys2Proof.Machine

/-! ## The frame of a transaction (R140) -/

/-- The answer is no part of what `Sync()` is compared on. -/
theorem SyncedOnly.respond {s t : State} (h : SyncedOnly s t) (r : Response) : SyncedOnly s (respond r t) where
  control := { h.control with }
  engine := { h.engine with }
  synced := { h.synced with }
  storage := h.storage
  harts := h.harts
  outside := { h.outside with }

/-- R140: a DMI read does nothing but `Sync()` and answers the register's value after it. -/
theorem dmiRead_spec (value : State → Word32) (s : State) :
    SyncedOnly s (dmiRead value s) ∧ Answers (dmiRead value s) (.word (value (sync (clearPulses s)))) [] :=
  ⟨(syncedOnly_sync s).respond _, rfl, rfl⟩

/-- A byte is untouched by `Sync()`. -/
theorem readByte_sync (s : State) (a : Nat) : readByte (sync (clearPulses s)) a = readByte s a :=
  (syncedOnly_sync s).storage a

theorem read32_sync (s : State) (off : Nat) : read32 (sync (clearPulses s)) off = read32 s off :=
  read32_congr s _ off fun _ _ => readByte_sync s _

/-! ## Words written (R85, R86) -/

/-- What a DMI write of a word into one of the buffers does besides the word: `Sync()`, and nothing else. -/
structure WordStored (s t : State) (off : Nat) (v : Word32) : Prop where
  answers : Answers t .ok []
  stored : Stored s t off (littleEndian 4 v)
  control : SameControl s t
  engine : SameEngine s t
  synced : Synced s t
  harts : SameHarts s t
  outside : SameOutside s t

theorem dmiWrite_write32_spec (off : Nat) (v : Word32) (s : State) :
    WordStored s (dmiWrite (fun u => write32 u off v) s) off v := by
  have h := syncedOnly_sync s
  exact {
    answers := ⟨rfl, rfl⟩
    stored := (stored_writeBytes (sync (clearPulses s)) off (littleEndian 4 v)).congr
      (fun a => (readByte_sync s a).symm) fun a => readByte_respond _ _ a
    control := { h.control with }
    engine := { h.engine with }
    synced := { h.synced with }
    harts := h.harts
    outside := { h.outside with } }

/-- Which cells a write leaves depends on the background alone, that is on what an unlisted offset reads as. -/
theorem storeCells_congr {s t : State} (h : unlisted t = unlisted s) (bs : List Byte) (m : Memory) (off : Nat) :
    storeCells t m off bs = storeCells s m off bs := by
  induction bs generalizing m off with
  | nil => rfl
  | cons b rest ih => rw [storeCells, storeCells, ih, storeCell, storeCell, h]

/-- R140, R150: a word may be written before `Sync()` or after it. -/
theorem write32_sync (s : State) (off : Nat) (v : Word32) :
    write32 (sync (clearPulses s)) off v = sync (clearPulses (write32 s off v)) := by
  have hmem : (write32 (sync (clearPulses s)) off v).mem = (write32 s off v).mem :=
    storeCells_congr (s := s) (t := sync (clearPulses s)) rfl _ _ _
  exact congrArg (fun m => { sync (clearPulses s) with mem := m }) hmem

/-! ## Slots (R150, R203) -/

theorem storeSlot_of_not_replayed {s : State} {n : Nat} (v : Word32)
    (h : s.autoexec.getLsbD n = false ∨ s.lastCommandValid = false) : storeSlot n v s = write32 s (dataOffset n) v := by
  have hcond : ((write32 s (dataOffset n) v).autoexec.getLsbD n && (write32 s (dataOffset n) v).lastCommandValid) = false :=
    Bool.and_eq_false_iff.2 h
  simp only [storeSlot, hcond, Bool.false_eq_true, if_false]

theorem storeSlot_of_replayed {s : State} {n : Nat} (v : Word32) (ha : s.autoexec.getLsbD n = true)
    (hv : s.lastCommandValid = true) : storeSlot n v s = perform s.lastCommand (write32 s (dataOffset n) v) := by
  simp only [storeSlot, write32_autoexec, write32_lastCommandValid, write32_lastCommand, ha, hv, Bool.and_self, if_true]

/-! ## Addresses (R81, R110) -/

theorem dmiHeader_toNat {a : Nat} (write : Bool) (h : a < 0x80) :
    (dmiHeader write a).toNat = if write then 0x80 + a else a := by
  have ha : (BitVec.ofNat 7 a).toNat = a := Nat.mod_eq_of_lt h
  rw [dmiHeader, BitVec.toNat_append, ← Nat.shiftLeft_add_eq_or_of_lt (BitVec.isLt _), ha]
  cases write <;> simp [Nat.shiftLeft_eq]

theorem mem_mappedDmi_iff (a : Nat) :
    a ∈ mappedDmi ↔ 0x04 ≤ a ∧ a < 0x0C ∨ a = 0x10 ∨ a = 0x16 ∨ a = 0x17 ∨ 0x20 ≤ a ∧ a < 0x28 := by
  simp only [mappedDmi, List.mem_cons, List.not_mem_nil, or_false]
  omega

/-- R81: an address that names a register is one of the 19 of the register map. -/
theorem mem_mappedDmi_of_decodeDmi {write : Bool} {a : Nat} {v : Word32} {i : Instr} (h : decodeDmi write a v = some i) :
    a ∈ mappedDmi := by
  unfold decodeDmi at h
  split at h
  next ha =>
    have hheader := dmiHeader_toNat write ha
    rw [mem_mappedDmi_iff]
    unfold decodeDmiHeader at h
    split at h
    case h_39 => cases h
    all_goals
      next hn =>
        rw [hn] at hheader
        split at hheader <;> omega
  next => cases h

theorem decode_dmi_of_unmapped {a : Nat} (h : a ∉ mappedDmi) (write : Bool) (v : Word32) :
    decode (.dmi write a v) = none :=
  Option.eq_none_iff_forall_ne_some.2 fun _ hd => h (mem_mappedDmi_of_decodeDmi hd)

/-! ## The values of the control registers (R113, R116, R147) -/

/-- R113: the fields of `dmcontrol`, laid side by side, are the fields shifted to their places. -/
theorem dmcontrol_fields (dmactive : BitVec 1) (status : BitVec 2) (hartsel : BitVec 10) :
    (0#1 ++ 0#1 ++ dmactive ++ 0#1 ++ status ++ hartsel ++ 0#8 ++ 1#1 ++ 0#1 ++ 0#2 ++ 1#4 : Word32) =
      (dmactive.setWidth 32 <<< 29) ||| (status.setWidth 32 <<< 26) ||| (hartsel.setWidth 32 <<< 16) ||| 0x81#32 := by
  apply BitVec.eq_of_getLsbD_eq
  intro i hi
  simp only [BitVec.getLsbD_append, BitVec.getLsbD_or, BitVec.getLsbD_shiftLeft]
  interval_cases i <;> simp

/-- R116: the fields of `abstractcs`, laid side by side, are the fields shifted to their places. -/
theorem abstractcs_fields (autoexec : BitVec 8) (busy : BitVec 1) (cmderr : BitVec 3) :
    (0#8 ++ autoexec ++ 0#3 ++ busy ++ 0#1 ++ cmderr ++ 0#4 ++ 8#4 : Word32) =
      (autoexec.setWidth 32 <<< 16) ||| (busy.setWidth 32 <<< 12) ||| (cmderr.setWidth 32 <<< 8) ||| 8#32 := by
  apply BitVec.eq_of_getLsbD_eq
  intro i hi
  simp only [BitVec.getLsbD_append, BitVec.getLsbD_or, BitVec.getLsbD_shiftLeft]
  interval_cases i <;> simp

theorem dmcontrolWord_of_constants {s : State} (h : ConstantsHold s) :
    dmcontrolWord s = ((BitVec.ofBool s.dmactive).setWidth 32 <<< 29) |||
      ((hartStatusCode (hartStatus s s.hartsel.toNat)).setWidth 32 <<< 26) ||| (s.hartsel.setWidth 32 <<< 16) ||| 0x81#32 := by
  obtain ⟨-, hversion, hauth, hbusy, htype⟩ := h
  rw [dmcontrolWord, hversion, hauth, hbusy, htype]
  exact dmcontrol_fields _ _ _

theorem abstractcsWord_of_constants {s : State} (h : ConstantsHold s) :
    abstractcsWord s = (s.autoexec.setWidth 32 <<< 16) ||| ((BitVec.ofBool s.busy).setWidth 32 <<< 12) |||
      ((cmderrCode s.cmderr).setWidth 32 <<< 8) ||| 8#32 := by
  obtain ⟨hcount, -⟩ := h
  rw [abstractcsWord, hcount]
  exact abstractcs_fields _ _ _

/-- R119, R125 (c): the mask takes out the reserved bits 23 and 19. -/
theorem reservedMask_getLsbD : ∀ n, n < 32 → (0xFF77FFFF#32).getLsbD n = !decide (n = 23 ∨ n = 19) := by decide

theorem commandWord_getLsbD (s : State) {n : Nat} (hn : n < 32) :
    (commandWord s).getLsbD n = (s.lastCommand.getLsbD n &&
      !decide ((n = 23 ∨ n = 19) ∧ cmdtype s.lastCommand = 0 ∧ s.params.reservedCommandBits = .zero)) := by
  rcases commandWord_cases s with ⟨hbits, hw⟩ | ⟨hbits, htype, hw⟩ | ⟨hbits, htype, hw⟩ <;> rw [hw]
  · simp [hbits]
  · rw [BitVec.getLsbD_and, reservedMask_getLsbD n hn]
    simp [hbits, htype]
  · simp [htype]

end Sys2Proof.Machine
end

section
/-! SUPPORT. The requests of a `dmcontrol` write (R142 to R144, R154): what the reset request and the halt and resume requests
do to the tracker of the selected hart, and that they touch nothing else. -/

namespace Sys2Proof.Machine

/-- From `s` to `t` nothing changes but the per-hart tracker and the pulses emitted. -/
def TrackerOnly (s t : State) : Prop :=
  ∃ halted interrupt haltNotification pulses,
    t = { s with halted := halted, interrupt := interrupt, haltNotification := haltNotification, pulses := pulses }

theorem TrackerOnly.refl (s : State) : TrackerOnly s s := ⟨_, _, _, _, rfl⟩

theorem TrackerOnly.trans {s t u : State} (h : TrackerOnly s t) (k : TrackerOnly t u) : TrackerOnly s u := by
  obtain ⟨_, _, _, _, rfl⟩ := h
  obtain ⟨_, _, _, _, rfl⟩ := k
  exact ⟨_, _, _, _, rfl⟩

/-- R142: the reset request of a write, which comes before the halt and the resume request. -/
def resetFirst (v : Word32) (h : Nat) (s : State) : State :=
  if resetBit v then hartResetRequest h s else s

/-- R142: the order of a write that leaves the module active. -/
theorem storeDmcontrol_of_active {v : Word32} (hv : dmactiveBit v = true) (s : State) :
    storeDmcontrol v s =
      haltOrResume v (hartselField v).toNat (resetFirst v (hartselField v).toNat (selectHart v s)) :=
  if_pos hv

/-- R249: which harts are recorded as halted once the notifications are folded. -/
theorem Synced.isHalted_iff {s t : State} (h : Synced s t) (k : Nat) :
    isHalted t k = true ↔ isHalted s k = true ∨ k ∈ s.haltNotification ∧ hartExists s k = true := by
  rw [h.halted, Bool.or_eq_true, Bool.and_eq_true, List.contains_iff_mem]

/-! ## The reset request (R154) -/

/-- Everything the reset request of a write can do: the tracker of an existing hart is cleared, or nothing happens. -/
theorem resetFirst_cases (v : Word32) (h : Nat) (s : State) :
    ((resetBit v = true ∧ hartExists s h = true) ∧
      resetFirst v h s = dropNotification h (dropInterrupt h (setHalted h false (emit (.hartReset h) s)))) ∨
    (¬(resetBit v = true ∧ hartExists s h = true) ∧ resetFirst v h s = s) := by
  unfold resetFirst hartResetRequest
  cases resetBit v <;> cases hartExists s h <;> simp

theorem trackerOnly_resetFirst (v : Word32) (h : Nat) (s : State) : TrackerOnly s (resetFirst v h s) := by
  rcases resetFirst_cases v h s with ⟨-, e⟩ | ⟨-, e⟩ <;> rw [e]
  · exact ⟨_, _, _, _, rfl⟩
  · exact .refl s

theorem isHalted_resetFirst (v : Word32) (h : Nat) (s : State) (k : Nat) :
    isHalted (resetFirst v h s) k = true ↔
      isHalted s k = true ∧ ¬(k = h ∧ resetBit v = true ∧ hartExists s h = true) := by
  rcases resetFirst_cases v h s with ⟨hr, e⟩ | ⟨hr, e⟩ <;> rw [e]
  · have hcleared : isHalted (setHalted h false s) k = if k = h ∧ h < 1024 then false else isHalted s k :=
      isHalted_setHalted h false s k
    have hlt := hartExists_lt s h hr.2
    change isHalted (setHalted h false s) k = true ↔ _
    rw [hcleared]
    by_cases hk : k = h <;> simp [hk, hlt, hr]
  · tauto

theorem mem_interrupt_resetFirst (v : Word32) (h : Nat) (s : State) (k : Nat) :
    k ∈ (resetFirst v h s).interrupt ↔ k ∈ s.interrupt ∧ ¬(k = h ∧ resetBit v = true ∧ hartExists s h = true) := by
  rcases resetFirst_cases v h s with ⟨hr, e⟩ | ⟨hr, e⟩ <;> rw [e]
  · change k ∈ removeId s.interrupt h ↔ _
    rw [mem_removeId]
    tauto
  · tauto

theorem haltNotification_resetFirst {s : State} (hs : s.haltNotification = []) (v : Word32) (h : Nat) :
    (resetFirst v h s).haltNotification = [] := by
  rcases resetFirst_cases v h s with ⟨-, e⟩ | ⟨-, e⟩ <;> rw [e]
  · exact congrArg (removeId · h) hs
  · exact hs

theorem pulses_resetFirst (v : Word32) (h : Nat) (s : State) :
    (resetFirst v h s).pulses =
      s.pulses ++ if resetBit v = true ∧ hartExists s h = true then [.hartReset h] else [] := by
  rcases resetFirst_cases v h s with ⟨hr, e⟩ | ⟨hr, e⟩ <;> rw [e]
  · rw [if_pos hr]; rfl
  · rw [if_neg hr, List.append_nil]

/-- R154, R36: a hart that is reset is no longer halted, and no other status changes. -/
theorem hartStatus_resetFirst (v : Word32) (h : Nat) (s : State) :
    hartStatus (resetFirst v h s) h =
      if resetBit v = true ∧ hartStatus s h = .halted then .running else hartStatus s h := by
  obtain ⟨_, _, _, _, htracker⟩ := trackerOnly_resetFirst v h s
  have hexists : hartExists (resetFirst v h s) h = hartExists s h := by rw [htracker]; rfl
  have hunavailable : hartUnavailable (resetFirst v h s) h = hartUnavailable s h := by rw [htracker]; rfl
  have hhalted : isHalted (resetFirst v h s) h = (isHalted s h && !(resetBit v && hartExists s h)) := by
    rw [Bool.eq_iff_iff, isHalted_resetFirst]
    cases resetBit v <;> simp
  rw [hartStatus, hartStatus, hexists, hunavailable, hhalted]
  cases hartExists s h <;> cases hartUnavailable s h <;> cases isHalted s h <;> cases resetBit v <;> simp

/-! ## The halt and the resume request (R143, R144) -/

/-- Everything the two requests can do: the intent to halt a RUNNING hart, the resumption of a HALTED one, or nothing. -/
theorem haltOrResume_cases (v : Word32) (h : Nat) (s : State) :
    ((haltreqBit v = true ∧ hartStatus s h = .running) ∧ haltOrResume v h s = addInterrupt h s) ∨
    ((resumereqBit v = true ∧ hartStatus s h = .halted) ∧ haltOrResume v h s = emit (.resume h) (setHalted h false s)) ∨
    (¬(haltreqBit v = true ∧ hartStatus s h = .running) ∧ ¬(resumereqBit v = true ∧ hartStatus s h = .halted) ∧
      haltOrResume v h s = s) := by
  unfold haltOrResume haltRequest resumeRequest
  cases haltreqBit v <;> cases resumereqBit v <;> cases hartStatus s h <;> simp

theorem trackerOnly_haltOrResume (v : Word32) (h : Nat) (s : State) : TrackerOnly s (haltOrResume v h s) := by
  rcases haltOrResume_cases v h s with ⟨-, e⟩ | ⟨-, e⟩ | ⟨-, -, e⟩ <;> rw [e]
  · exact ⟨_, _, _, _, rfl⟩
  · exact ⟨_, _, _, _, rfl⟩
  · exact .refl s

theorem isHalted_haltOrResume (v : Word32) (h : Nat) (s : State) (k : Nat) :
    isHalted (haltOrResume v h s) k = true ↔
      isHalted s k = true ∧ ¬(k = h ∧ resumereqBit v = true ∧ hartStatus s h = .halted) := by
  rcases haltOrResume_cases v h s with ⟨⟨-, hst⟩, e⟩ | ⟨hr, e⟩ | ⟨-, hr, e⟩ <;> rw [e]
  · rw [hst]
    change isHalted s k = true ↔ _
    simp
  · have hcleared : isHalted (setHalted h false s) k = if k = h ∧ h < 1024 then false else isHalted s k :=
      isHalted_setHalted h false s k
    have hlt := hartExists_lt s h ((hartStatus_eq_halted s h).1 hr.2).1
    change isHalted (setHalted h false s) k = true ↔ _
    rw [hcleared]
    by_cases hk : k = h <;> simp [hk, hlt, hr]
  · tauto

theorem mem_interrupt_haltOrResume (v : Word32) (h : Nat) (s : State) (k : Nat) :
    k ∈ (haltOrResume v h s).interrupt ↔
      (k = h ∧ haltreqBit v = true ∧ hartStatus s h = .running) ∨ k ∈ s.interrupt := by
  rcases haltOrResume_cases v h s with ⟨hr, e⟩ | ⟨⟨-, hst⟩, e⟩ | ⟨hr, -, e⟩ <;> rw [e]
  · change k ∈ insertId s.interrupt h ↔ _
    rw [mem_insertId]
    tauto
  · rw [hst]
    change k ∈ s.interrupt ↔ _
    simp
  · tauto

theorem haltNotification_haltOrResume (v : Word32) (h : Nat) (s : State) :
    (haltOrResume v h s).haltNotification = s.haltNotification := by
  rcases haltOrResume_cases v h s with ⟨-, e⟩ | ⟨-, e⟩ | ⟨-, -, e⟩ <;> rw [e] <;> rfl

theorem pulses_haltOrResume (v : Word32) (h : Nat) (s : State) :
    (haltOrResume v h s).pulses =
      s.pulses ++ if resumereqBit v = true ∧ hartStatus s h = .halted then [.resume h] else [] := by
  rcases haltOrResume_cases v h s with ⟨⟨-, hst⟩, e⟩ | ⟨hr, e⟩ | ⟨-, hr, e⟩ <;> rw [e]
  · rw [if_neg (by simp [hst]), List.append_nil]; rfl
  · rw [if_pos hr]; rfl
  · rw [if_neg hr, List.append_nil]

/-! ## The frame of the write -/

/-- R142: what a write keeps that leaves the module active. -/
structure DmcontrolFrame (s t : State) : Prop where
  settings : SameSettings s t
  engine : SameEngine s t
  storage : SameStorage s t
  harts : SameHarts s t
  outside : SameOutside s t

theorem dmcontrolFrame_of_trackerOnly {s t : State} {v : Word32}
    (h : TrackerOnly (selectHart v (sync (clearPulses s))) t) (r : Response) : DmcontrolFrame s (respond r t) := by
  obtain ⟨_, _, _, _, rfl⟩ := h
  have hsync := syncedOnly_sync s
  exact {
    settings := { hsync.control with }
    engine := { hsync.engine with }
    storage := hsync.storage
    harts := hsync.harts
    outside := { hsync.outside with } }

/-- R33, R34: the two fields that the write stores stay as stored. -/
theorem selection_of_trackerOnly {s t : State} {v : Word32} (h : TrackerOnly (selectHart v s) t) :
    t.dmactive = true ∧ t.hartsel = hartselField v := by
  obtain ⟨_, _, _, _, rfl⟩ := h
  exact ⟨rfl, rfl⟩

end Sys2Proof.Machine
end

section
/-! SUPPORT. `perform` class by class (R181, R194 to R202): its steps P1 to P5 are what every class starts with, and its steps
P6 to P9 come, for a word of each class, to the class's own rule. -/

namespace Sys2Proof.Machine

variable {c : Word32}

/-- R181, P6 to P9: what `perform` does with an accepted command and its hart. -/
def performAccepted (c : Word32) (h : Nat) (s : State) : State :=
  if cmdtype c ≠ 0 then setCmderr .notsup s
  else if transfer c ∧ (regno c < 0x1000 ∨ regno c > 0x101F) then setCmderr .notsup s
  else if transfer c ∧ ¬(size c = 2 ∨ (size c = 3 ∧ s.params.xlen = .x64)) then setCmderr .notsup s
  else if ¬transfer c ∧ ¬postexec c then s
  else stage (compose s.params c) c h s

/-- R181: `perform` is P1 to P5, then P6 to P9 on the recorded command. -/
theorem perform_eq (c : Word32) (s : State) :
    perform c s =
      if s.busy then setCmderr .busy s
      else if s.cmderr ≠ .none then s
      else if hartStatus (recordCommand c s) s.hartsel.toNat = .notexist then
        setCmderr (noHartError s.params.noHart) (recordCommand c s)
      else if cmdtype c = 0 ∧ hartStatus (recordCommand c s) s.hartsel.toNat ≠ .halted then
        setCmderr .haltresume (recordCommand c s)
      else performAccepted c s.hartsel.toNat (recordCommand c s) :=
  rfl

/-- R186: a word needs a halted hart exactly when its `cmdtype` is 0. -/
theorem perform_eq_whenAccepted (c : Word32) (s : State) :
    perform c s = whenAccepted c (decide (cmdtype c = 0)) (performAccepted c) s := by
  rw [perform_eq, whenAccepted]
  simp only [recordCommand_hartsel, recordCommand_params]
  by_cases h0 : cmdtype c = 0 <;> cases hartStatus (recordCommand c s) s.hartsel.toNat <;> simp [h0]

/-- Only what a class does to the recorded command's state matters. -/
theorem whenAccepted_congr {needsHalt : Bool} {act act' : Nat → State → State} {s : State}
    (h : act s.hartsel.toNat (recordCommand c s) = act' s.hartsel.toNat (recordCommand c s)) :
    whenAccepted c needsHalt act s = whenAccepted c needsHalt act' s := by
  unfold whenAccepted
  simp only [recordCommand_hartsel, h]

/-- R201, R202, P6: a word with another `cmdtype` is refused, and needs no halted hart. -/
theorem perform_of_cmdtype_ne_zero (h : cmdtype c ≠ 0) (s : State) : perform c s = unsupported c false s := by
  rw [perform_eq_whenAccepted, decide_eq_false h]
  exact whenAccepted_congr (if_pos h)

theorem perform_of_cmdtype_zero (h : cmdtype c = 0) {act : Nat → State → State} {s : State}
    (hact : performAccepted c s.hartsel.toNat (recordCommand c s) = act s.hartsel.toNat (recordCommand c s)) :
    perform c s = whenAccepted c true act s := by
  rw [perform_eq_whenAccepted, decide_eq_true h]
  exact whenAccepted_congr hact

/-- R199: a word that transfers nothing and executes nothing is recorded only. -/
theorem perform_nop (h : cmdtype c = 0) (ht : transfer c = false) (hp : postexec c = false) (s : State) :
    perform c s = whenAccepted c true (fun _ u => u) s :=
  perform_of_cmdtype_zero h (by simp [performAccepted, h, ht, hp])

/-- R198: a word that executes the program buffer only stages the jump to it. -/
theorem perform_exec (h : cmdtype c = 0) (ht : transfer c = false) (hp : postexec c = true) (s : State) :
    perform c s = whenAccepted c true (stage [jumpFromFirst] c) s :=
  perform_of_cmdtype_zero h (by simp [performAccepted, compose, h, ht, hp])

/-- R200, P7, P8: a transfer that no access row takes is refused. -/
theorem perform_unsupported (h : cmdtype c = 0) (ht : transfer c = true)
    (hsup : ¬accessSupported (c.extractLsb' 0 24) = true) (s : State) : perform c s = unsupported c true s := by
  refine perform_of_cmdtype_zero h ?_
  rw [accessSupported_low, regnoField_eq_iff, sizeField_eq_iff, sizeField_eq_iff] at hsup
  unfold performAccepted
  rw [if_neg (not_not.2 h)]
  by_cases hr : regno c < 0x1000 ∨ regno c > 0x101F
  · rw [if_pos ⟨ht, hr⟩]
  · have hsize : ¬(size c = 2 ∨ (size c = 3 ∧ (recordCommand c s).params.xlen = .x64)) := by
      simp only [BitVec.toNat_ofNat] at hsup
      omega
    rw [if_neg (fun hc => hr hc.2), if_pos ⟨ht, hsize⟩]

/-! ## The accesses (R194 to R197) -/

/-- R124: the register number is the low five bits of the word. -/
theorem regIndex_eq (hr : c.extractLsb' 5 11 = 0x080#11) : regIndex c = c.extractLsb' 0 5 := by
  obtain ⟨hlo, hhi⟩ := (regnoField_eq_iff c).1 hr
  apply BitVec.eq_of_toNat_eq
  rw [regIndex, BitVec.toNat_ofNat, BitVec.extractLsb'_toNat]
  rw [regno, BitVec.extractLsb'_toNat] at hlo hhi ⊢
  simp only [Nat.shiftRight_zero] at hlo hhi ⊢
  omega

theorem accessWord_of_size2 (hr : c.extractLsb' 5 11 = 0x080#11) (hs : size c = 2) (p : Params) :
    accessWord p c = if write c then lwWord p (c.extractLsb' 0 5) else swWord p (c.extractLsb' 0 5) := by
  rw [accessWord, if_pos hs, if_pos hs, regIndex_eq hr]

theorem accessWord_of_size3 (hr : c.extractLsb' 5 11 = 0x080#11) (hs : size c = 3) (p : Params) :
    accessWord p c = if write c then ldWord p (c.extractLsb' 0 5) else sdWord p (c.extractLsb' 0 5) := by
  have hne : size c ≠ 2 := by omega
  rw [accessWord, if_neg hne, if_neg hne, regIndex_eq hr]

/-- P7, P8: an access that the hart's `XLEN` allows is staged. -/
theorem performAccepted_access (h : cmdtype c = 0) (ht : transfer c = true) (hr : c.extractLsb' 5 11 = 0x080#11)
    {s : State} (hs : size c = 2 ∨ (size c = 3 ∧ s.params.xlen = .x64)) (k : Nat) :
    performAccepted c k s = stage [accessWord s.params c, afterAccess (postexec c)] c k s := by
  have hregno := (regnoField_eq_iff c).1 hr
  unfold performAccepted
  rw [if_neg (not_not.2 h), if_neg (by omega), if_neg (fun hc => hc.2 hs), if_neg (fun hc => hc.1 ht), compose, if_pos ht]

/-- R194, R195. -/
theorem perform_access32 (h : cmdtype c = 0) (ht : transfer c = true) (hr : c.extractLsb' 5 11 = 0x080#11)
    (hs : size c = 2) (s : State) : perform c s = access32 (accessWord s.params c) c (postexec c) s :=
  perform_of_cmdtype_zero h (performAccepted_access h ht hr (.inl hs) _)

/-- R196, R197; with `XLEN = 32` P8 refuses the size. -/
theorem perform_access64 (h : cmdtype c = 0) (ht : transfer c = true) (hr : c.extractLsb' 5 11 = 0x080#11)
    (hs : size c = 3) (s : State) : perform c s = access64 (accessWord s.params c) c (postexec c) s := by
  refine perform_of_cmdtype_zero h ?_
  cases hx : s.params.xlen with
  | x64 =>
    rw [performAccepted_access (s := recordCommand c s) h ht hr (.inr ⟨hs, hx⟩)]
    simp only [recordCommand_params, hx]
  | x32 =>
    have hregno := (regnoField_eq_iff c).1 hr
    have hsize : ¬(size c = 2 ∨ (size c = 3 ∧ (recordCommand c s).params.xlen = .x64)) := by
      simp [hs, hx]
    rw [performAccepted, if_neg (not_not.2 h), if_neg (by omega), if_pos ⟨ht, hsize⟩]
    simp only [recordCommand_params, hx]

/-! ## The rows -/

/-- R148, log 4: a row whose effect on the state after `Sync()` is that of `perform` is the write of its word. -/
theorem exec_eq_of_perform {i : Instr} {effect : State → State} {s : State} (hi : exec i s = .next (dmiWrite effect s))
    (h : perform c (sync (clearPulses s)) = effect (sync (clearPulses s))) :
    exec (.dmiWriteCommand c) s = exec i s :=
  (congrArg (fun u => Host.Outcome.next (respond .ok u)) h).trans hi.symm

/-- R201, R202: a row that refuses its word, whose leading bits the row fixes. -/
theorem exec_eq_of_cmdtype_ne_zero {i : Instr} {w : Word32} {s : State} (hd : decodeCommand c = i) (h : cmdtype c ≠ 0)
    (hw : w = c) (hi : exec i s = .next (dmiWrite (unsupported w false) s)) :
    exec (.dmiWriteCommand c) s = exec (decodeCommand c) s := by
  rw [hd]
  exact exec_eq_of_perform hi (hw ▸ perform_of_cmdtype_ne_zero h _)

theorem exec_eq_of_size2 (h : cmdtype c = 0) (ht : transfer c = true) (hr : c.extractLsb' 5 11 = 0x080#11)
    (hs : c.extractLsb' 20 3 = 2#3) (s : State) : exec (.dmiWriteCommand c) s = exec (decodeTransfer c) s := by
  have hword := transferWord_of_fields h ht hr
  have hsize : size c = 2 := (sizeField_eq_iff c 2#3).1 hs
  have hperform := perform_access32 h ht hr hsize (sync (clearPulses s))
  rw [hs] at hword
  rw [accessWord_of_size2 hr hsize] at hperform
  rw [decodeTransfer_size2 hr hs]
  cases hw : write c <;> rw [hw] at hword hperform
  all_goals exact exec_eq_of_perform rfl (by rw [hword]; exact hperform)

theorem exec_eq_of_size3 (h : cmdtype c = 0) (ht : transfer c = true) (hr : c.extractLsb' 5 11 = 0x080#11)
    (hs : c.extractLsb' 20 3 = 3#3) (s : State) : exec (.dmiWriteCommand c) s = exec (decodeTransfer c) s := by
  have hword := transferWord_of_fields h ht hr
  have hsize : size c = 3 := (sizeField_eq_iff c 3#3).1 hs
  have hperform := perform_access64 h ht hr hsize (sync (clearPulses s))
  rw [hs] at hword
  rw [accessWord_of_size3 hr hsize] at hperform
  rw [decodeTransfer_size3 hr hs]
  cases hw : write c <;> rw [hw] at hword hperform
  all_goals exact exec_eq_of_perform rfl (by rw [hword]; exact hperform)

theorem exec_eq_of_not_supported (h : cmdtype c = 0) (ht : transfer c = true)
    (hsup : ¬accessSupported (c.extractLsb' 0 24) = true) (s : State) :
    exec (.dmiWriteCommand c) s = exec (decodeTransfer c) s := by
  have hword : 0#8 ++ c.extractLsb' 0 24 = c := append_extractLsb'_zero ((cmdtype_eq c).symm.trans h)
  rw [decodeTransfer_unsupported hsup]
  exact exec_eq_of_perform rfl (by rw [hword]; exact perform_unsupported h ht hsup _)

/-- The rows of `cmdtype = 0` that transfer nothing. -/
theorem exec_eq_of_not_transfer (h : cmdtype c = 0) (ht : transfer c = false) (s : State) :
    exec (.dmiWriteCommand c) s = exec (decodeCommand c) s := by
  have hword := executeWord_of_fields h ht
  cases hp : postexec c with
  | false =>
    rw [hp] at hword
    rw [decodeCommand_nop h ht hp]
    exact exec_eq_of_perform rfl (by rw [hword]; exact perform_nop h ht hp _)
  | true =>
    rw [hp] at hword
    rw [decodeCommand_exec h ht hp]
    exact exec_eq_of_perform rfl (by rw [hword]; exact perform_exec h ht hp _)

/-- The rows of `cmdtype = 0` that transfer a register. -/
theorem exec_eq_of_transfer (h : cmdtype c = 0) (ht : transfer c = true) (s : State) :
    exec (.dmiWriteCommand c) s = exec (decodeCommand c) s := by
  rw [decodeCommand_transfer h ht]
  by_cases hsup : accessSupported (c.extractLsb' 0 24) = true
  · obtain ⟨hr, hs | hs⟩ := (accessSupported_low c).1 hsup
    · exact exec_eq_of_size2 h ht hr hs s
    · exact exec_eq_of_size3 h ht hr hs s
  · exact exec_eq_of_not_supported h ht hsup s

end Sys2Proof.Machine
end

section
/-! The statements of 40_dmi_registers.md, settled. -/

namespace Sys2Proof.Machine

/-- Settles O8: an unmapped address decodes to nothing, and such a packet is answered by `dmiFail`. -/
theorem unmappedDmiAccessFails : Obligations.UnmappedDmiAccessFails := by
  intro s rest write a v hp ha
  have hstep : step s = .next (dmiFail { s with pending := rest }) :=
    (step_of_packet hp).trans (runPacket_of_not_decoded (decode_dmi_of_unmapped ha write v) _)
  exact ⟨_, hstep, ⟨rfl, rfl⟩, (syncedOnly_sync _).respond _⟩

/-- Settles O12: the fields laid side by side, with the status that `Sync()` leaves. -/
theorem readDmcontrol : Obligations.ReadDmcontrol := by
  intro s hc
  obtain ⟨hframe, hanswer⟩ := dmiRead_spec dmcontrolWord s
  have hsynced : ConstantsHold (sync (clearPulses s)) := hc
  rw [dmcontrolWord_of_constants hsynced, hartStatus_sync] at hanswer
  exact ⟨_, rfl, hframe, hanswer⟩

/-- Settles O13: the fields laid side by side; `Sync()` touches none of them. -/
theorem readAbstractcs : Obligations.ReadAbstractcs := by
  intro s hc
  obtain ⟨hframe, hanswer⟩ := dmiRead_spec abstractcsWord s
  have hsynced : ConstantsHold (sync (clearPulses s)) := hc
  rw [abstractcsWord_of_constants hsynced] at hanswer
  exact ⟨_, rfl, hframe, hanswer⟩

/-- Settles O14: for both readings of the reserved bits, bit by bit. -/
theorem readCommand : Obligations.ReadCommand := by
  intro s
  obtain ⟨hframe, hanswer⟩ := dmiRead_spec commandWord s
  exact ⟨_, _, rfl, hframe, hanswer, fun n hn => commandWord_getLsbD (sync (clearPulses s)) hn⟩

/-- Settles O15: the slot is read after a `Sync()` that touches no byte. -/
theorem readDataSlots : Obligations.ReadDataSlots := by
  intro n i hi s
  obtain ⟨-, hexec⟩ := exec_dataRead hi s
  obtain ⟨hframe, hanswer⟩ := dmiRead_spec (fun u => read32 u (dataOffset n)) s
  rw [read32_sync] at hanswer
  exact ⟨_, hexec, hframe, hanswer⟩

/-- Settles O16: the word is read after a `Sync()` that touches no byte. -/
theorem readProgramBufferWords : Obligations.ReadProgramBufferWords := by
  intro n i hi s
  obtain ⟨-, hexec⟩ := exec_progbufRead hi s
  obtain ⟨hframe, hanswer⟩ := dmiRead_spec (fun u => read32 u (progbufOffset n)) s
  rw [read32_sync] at hanswer
  exact ⟨_, hexec, hframe, hanswer⟩

/-- Settles O17: the requests act one after the other on the tracker that `Sync()` leaves, and on nothing else. -/
theorem writeDmcontrol : Obligations.WriteDmcontrol := by
  intro s v hv h reset st
  let synced := selectHart v (sync (clearPulses s))
  let afterReset := resetFirst v h synced
  let written := haltOrResume v h afterReset
  have hexec : exec (.dmiWriteDmcontrol v) s = .next (respond .ok written) :=
    congrArg (fun u => Host.Outcome.next (respond .ok u)) (storeDmcontrol_of_active hv (sync (clearPulses s)))
  have hbefore : hartStatus synced h = statusAfterSync s h := hartStatus_sync s h
  have hstatus : hartStatus afterReset h = st := by
    rw [hartStatus_resetFirst, hbefore]; rfl
  have hsynced : Synced s synced := { synced_sync s with }
  have htracker : TrackerOnly synced written :=
    (trackerOnly_resetFirst v h synced).trans (trackerOnly_haltOrResume v h afterReset)
  obtain ⟨hactive, hsel⟩ := selection_of_trackerOnly htracker
  have hframe := dmcontrolFrame_of_trackerOnly htracker .ok
  refine ⟨_, hexec, ⟨rfl, ?pulses⟩, hactive, hsel, fun k => ?halted, fun k => ?interrupt, ?notification,
    hframe.settings, hframe.engine, hframe.storage, hframe.harts, hframe.outside⟩
  case pulses =>
    change written.pulses = _
    rw [pulses_haltOrResume, pulses_resetFirst, hstatus]
    rfl
  case halted =>
    change isHalted written k = true ↔ _
    rw [isHalted_haltOrResume, isHalted_resetFirst, hstatus, hsynced.isHalted_iff, and_assoc, ← not_or, ← and_or_left]
    rfl
  case interrupt =>
    change k ∈ written.interrupt ↔ _
    rw [mem_interrupt_haltOrResume, mem_interrupt_resetFirst, hstatus, hsynced.interrupt k, and_assoc]
    rfl
  case notification =>
    exact (haltNotification_haltOrResume v h afterReset).trans (haltNotification_resetFirst rfl v h)

/-- Settles O19: `autoexec` and `cmderr` are written, around them there is only `Sync()`. -/
theorem writeAbstractcs : Obligations.WriteAbstractcs := by
  intro s v
  have h := syncedOnly_sync s
  have hautoexec : ∀ n, n < 8 → (autoexecField v).getLsbD n = v.getLsbD (16 + n) := fun n hn => by
    rw [autoexecField, BitVec.getLsbD_extractLsb', decide_eq_true hn, Bool.true_and]
  exact ⟨_, rfl, ⟨rfl, rfl⟩, hautoexec, rfl, { h.engine with }, { h.synced with }, h.storage, h.harts,
    { h.outside with }, rfl, rfl, rfl, rfl, rfl, rfl, rfl⟩

/-- Settles O20: row by row; the row's word is the word written, and P6 to P9 come to the row's rule. -/
theorem commandWriteRunsItsClass : Obligations.CommandWriteRunsItsClass := by
  intro s c
  have htype := cmdtype_eq c
  rcases cmdtype_ranges c with h0 | h | h | h | h | h | h | h | h
  · cases ht : transfer c with
    | false => exact exec_eq_of_not_transfer h0 ht s
    | true => exact exec_eq_of_transfer h0 ht s
  · exact exec_eq_of_cmdtype_ne_zero (decodeCommand_quick h) (by omega) (append_extractLsb'_zero h) rfl
  · exact exec_eq_of_cmdtype_ne_zero (decodeCommand_unknown2_3 h) (by omega) (append_extractLsb'_zero h) rfl
  · exact exec_eq_of_cmdtype_ne_zero (decodeCommand_unknown4_7 h) (by omega) (append_extractLsb'_zero h) rfl
  · exact exec_eq_of_cmdtype_ne_zero (decodeCommand_unknown8_15 h) (by omega) (append_extractLsb'_zero h) rfl
  · exact exec_eq_of_cmdtype_ne_zero (decodeCommand_unknown16_31 h) (by omega) (append_extractLsb'_zero h) rfl
  · exact exec_eq_of_cmdtype_ne_zero (decodeCommand_unknown32_63 h) (by omega) (append_extractLsb'_zero h) rfl
  · exact exec_eq_of_cmdtype_ne_zero (decodeCommand_unknown64_127 h) (by omega) (append_extractLsb'_zero h) rfl
  · exact exec_eq_of_cmdtype_ne_zero (decodeCommand_unknown128_255 h) (by omega) (append_extractLsb'_zero h) rfl

/-- Settles O21: without a replay the effect of the write is the word alone. -/
theorem writeDataSlotWithoutReplay : Obligations.WriteDataSlotWithoutReplay := by
  intro v n i hi s hreplay
  obtain ⟨-, hexec⟩ := exec_dataWrite hi s
  have heffect : writeSlot n v s = dmiWrite (fun u => write32 u (dataOffset n) v) s :=
    congrArg (respond .ok) (storeSlot_of_not_replayed (s := sync (clearPulses s)) v hreplay)
  have h := dmiWrite_write32_spec (dataOffset n) v s
  exact ⟨_, hexec.trans (congrArg _ heffect), h.answers, h.stored, h.control, h.engine, h.synced, h.harts, h.outside⟩

/-- Settles O22: storing the word and `Sync()` commute, so the write is the store and then the write of the recorded
command. -/
theorem writeDataSlotReplaysTheCommand : Obligations.WriteDataSlotReplaysTheCommand := by
  intro v n i hi s hauto hvalid
  obtain ⟨-, hexec⟩ := exec_dataWrite hi s
  have hreplay : storeSlot n v (sync (clearPulses s)) =
      perform s.lastCommand (sync (clearPulses (write32 s (dataOffset n) v))) := by
    rw [storeSlot_of_replayed (s := sync (clearPulses s)) v hauto hvalid, write32_sync]
    rfl
  exact ⟨write32 s (dataOffset n) v, rfl, stored_writeBytes s _ _,
    hexec.trans (congrArg (fun u => Host.Outcome.next (respond .ok u)) hreplay)⟩

/-- Settles O23: the effect of the write is the word alone. -/
theorem writeProgramBufferWords : Obligations.WriteProgramBufferWords := by
  intro v n i hi s
  obtain ⟨-, hexec⟩ := exec_progbufWrite hi s
  have h := dmiWrite_write32_spec (progbufOffset n) v s
  exact ⟨_, hexec, h.answers, h.stored, h.control, h.engine, h.synced, h.harts, h.outside⟩

end Sys2Proof.Machine
end

section
/-! SUPPORT. What becomes of a command, said once for the fifteen rows and for the plain write of `command` (R181 to R186): each
is P1 to P5 of its word, and then the rule of its class. -/

namespace Sys2Proof.Machine

variable {s : State} {c : Word32} {i : Instr}

/-! ## The rows and the plain write -/

theorem cmdtype_executeWord (p : Bool) (hi : BitVec 5) (lo : BitVec 17) : cmdtype (executeWord p hi lo) = 0 := by
  simp (disch := decide) only [cmdtype, executeWord, BitVec.extractLsb'_append_eq_of_le, BitVec.extractLsb'_eq_self,
    Nat.reduceSub]
  rfl

/-- A word whose leading field, which reaches down to bit `m`, is 1 has another `cmdtype` than 0. -/
theorem cmdtype_ne_zero_of_leading {n m : Nat} (hm : 24 ≤ m) {low : BitVec m} {c : BitVec 32} {k : BitVec n}
    (hc : c.toNat = (k ++ low).toNat) (hk : k.toNat = 1) : cmdtype c ≠ 0 := by
  have hdiv := toNat_append_div k low
  have hpow : 2 ^ 24 ≤ 2 ^ m := Nat.pow_le_pow_right (by decide) hm
  rw [cmdtype_eq, hc]
  intro h0
  have hlt : (k ++ low).toNat < 2 ^ 24 := by omega
  rw [Nat.div_eq_of_lt (hlt.trans_le hpow)] at hdiv
  omega

/-- R181, R186: in `s` the instruction is the write of the command word `c`, that is P1 to P5 and then the rule of a class; a
halted hart is needed exactly with `cmdtype = 0`, and the words with another `cmdtype` have one rule, that they are refused. -/
def RunsClass (i : Instr) (c : Word32) (s : State) : Prop :=
  ∃ act : Nat → State → State,
    exec i s = .next (dmiWrite (whenAccepted c (decide (cmdtype c = 0)) act) s) ∧
      (cmdtype c ≠ 0 → act = fun _ u => setCmderr .notsup u)

theorem runsClass_of_cmdtype_zero {act : Nat → State → State} (hc : cmdtype c = 0)
    (h : exec i s = .next (dmiWrite (whenAccepted c true act) s)) : RunsClass i c s :=
  ⟨act, by rw [h, decide_eq_true hc], fun hne => absurd hc hne⟩

theorem runsClass_of_cmdtype_ne_zero (hc : cmdtype c ≠ 0)
    (h : exec i s = .next (dmiWrite (unsupported c false) s)) : RunsClass i c s :=
  ⟨_, by rw [h, decide_eq_false hc]; rfl, fun _ => rfl⟩

/-- R194 to R202, row by row. -/
theorem runsClass_of_encode (h : encode i = .command c) (s : State) : RunsClass i c s := by
  cases i with
  | arRead32 | arWrite32 | arRead64 | arWrite64 =>
    cases h
    exact runsClass_of_cmdtype_zero (cmdtype_transferWord ..) rfl
  | arExec | arNop =>
    cases h
    exact runsClass_of_cmdtype_zero (cmdtype_executeWord ..) rfl
  | arUnsup low =>
    cases h
    exact runsClass_of_cmdtype_zero (cmdtype_zero_append low) rfl
  | quick | unknown2_3 | unknown4_7 | unknown8_15 | unknown16_31 | unknown32_63 | unknown64_127 | unknown128_255 =>
    cases h
    exact runsClass_of_cmdtype_ne_zero (cmdtype_ne_zero_of_leading (by decide) rfl rfl) rfl
  | _ => cases h

theorem runsClass_of_carriesCommand (h : CarriesCommand i c) (s : State) : RunsClass i c s := by
  rcases h with rfl | h
  · refine ⟨performAccepted c, ?_, fun hc => ?_⟩
    · rw [← funext (perform_eq_whenAccepted c)]
      rfl
    · funext _ u
      exact if_pos hc
  · exact runsClass_of_encode h s

/-! ## P1 to P5 on the state that `Sync()` leaves -/

/-- R185, R186: the error that the selected hart's status gives a command, if it gives one. -/
def hartRefusal (p : Params) (needsHalt : Bool) : HartStatus → Option CmdErr
  | .notexist => some (noHartError p.noHart)
  | .halted => none
  | .running => if needsHalt then some .haltresume else none
  | .unavailable => if needsHalt then some .haltresume else none

section
variable (needsHalt : Bool) (act : Nat → State → State)

/-- R182. -/
theorem whenAccepted_of_busy (h : s.busy = true) : whenAccepted c needsHalt act s = setCmderr .busy s :=
  if_pos h

/-- R183. -/
theorem whenAccepted_of_error (hb : s.busy = false) (he : s.cmderr ≠ .none) : whenAccepted c needsHalt act s = s := by
  rw [whenAccepted, hb, if_neg Bool.false_ne_true, if_pos he]

/-- P4 and P5 of R181: the status looked at is the one after `Sync()` has folded the notifications. -/
theorem whenAccepted_after_sync (h : EngineIdle s) :
    whenAccepted c needsHalt act (sync (clearPulses s)) =
      (hartRefusal s.params needsHalt (statusAfterSync s (selected s))).elim
        (act (selected s) (recordCommand c (sync (clearPulses s))))
        fun e => setCmderr e (recordCommand c (sync (clearPulses s))) := by
  obtain ⟨hb, he⟩ := h
  have hbusy : ¬(sync (clearPulses s)).busy = true := ne_true_of_eq_false hb
  have herror : ¬(sync (clearPulses s)).cmderr ≠ .none := not_not.2 he
  have hstatus : hartStatus (recordCommand c (sync (clearPulses s))) s.hartsel.toNat = statusAfterSync s (selected s) :=
    hartStatus_sync s (selected s)
  rw [whenAccepted, if_neg hbusy, if_neg herror, ← hstatus]
  simp only [recordCommand_hartsel, sync_hartsel, clearPulses_hartsel]
  cases hartStatus (recordCommand c (sync (clearPulses s))) s.hartsel.toNat <;> cases needsHalt <;> rfl

/-- P4 and P5 of R181 on an idle engine, when the selected hart's status refuses the command. -/
theorem whenAccepted_of_refused {e : CmdErr} (h : EngineIdle s)
    (hst : hartRefusal s.params needsHalt (statusAfterSync s (selected s)) = some e) :
    whenAccepted c needsHalt act (sync (clearPulses s)) = setCmderr e (recordCommand c (sync (clearPulses s))) := by
  rw [whenAccepted_after_sync _ _ h, hst]
  rfl

/-- P4 and P5 of R181 on an idle engine, when the selected hart's status lets the command pass. -/
theorem whenAccepted_of_passed (h : EngineIdle s)
    (hst : hartRefusal s.params needsHalt (statusAfterSync s (selected s)) = none) :
    whenAccepted c needsHalt act (sync (clearPulses s)) = act (selected s) (recordCommand c (sync (clearPulses s))) := by
  rw [whenAccepted_after_sync _ _ h, hst]
  rfl

end

theorem statusAfterSync_of_not_exists {h : Nat} (he : hartExists s h = false) : statusAfterSync s h = .notexist :=
  if_pos he

theorem statusAfterSync_ne_notexist {h : Nat} (he : hartExists s h = true) : statusAfterSync s h ≠ .notexist := by
  intro hst
  rw [← hartStatus_sync, hartStatus_eq_notexist] at hst
  exact absurd (he.symm.trans hst) Bool.noConfusion

/-! ## A command that is recorded and stages nothing -/

/-- R140: only what an effect does to the state that `Sync()` leaves matters. -/
theorem dmiWrite_congr {effect effect' : State → State} (h : effect (sync (clearPulses s)) = effect' (sync (clearPulses s))) :
    dmiWrite effect s = dmiWrite effect' s :=
  congrArg (respond .ok) h

theorem exec_of_effect {effect : State → State} {u : State} (h : exec i s = .next (dmiWrite effect s))
    (heffect : effect (sync (clearPulses s)) = u) : exec i s = .next (respond .ok u) :=
  heffect ▸ h

/-- The instruction answers `ok`, records the word `c`, leaves `cmderr` at `e`, and does nothing else but `Sync()`. -/
def RecordsOnly (i : Instr) (s : State) (c : Word32) (e : CmdErr) : Prop :=
  ∃ t, exec i s = .next t ∧ Answers t .ok [] ∧ NothingStaged s t ∧ Recorded t c ∧ t.cmderr = e

theorem nothingStaged_recordCommand {u : State} (h : SyncedOnly s u) (c : Word32) :
    NothingStaged s (recordCommand c u) where
  busy := h.engine.busy
  nextAction := h.engine.nextAction
  actionExecuted := h.engine.actionExecuted
  control := { h.control with }
  synced := { h.synced with }
  storage := h.storage
  harts := h.harts
  outside := { h.outside with }

/-- Neither the answer nor `cmderr` is among what such a command keeps. -/
theorem NothingStaged.answered {u : State} (h : NothingStaged s u) (e : CmdErr) (r : Response) :
    NothingStaged s (respond r (setCmderr e u)) where
  busy := h.busy
  nextAction := h.nextAction
  actionExecuted := h.actionExecuted
  control := { h.control with }
  synced := { h.synced with }
  storage := h.storage
  harts := h.harts
  outside := { h.outside with }

theorem recordsOnly_of_effect {effect : State → State} {e : CmdErr} (h : exec i s = .next (dmiWrite effect s))
    (heffect : effect (sync (clearPulses s)) = setCmderr e (recordCommand c (sync (clearPulses s)))) :
    RecordsOnly i s c e :=
  ⟨_, exec_of_effect h heffect, ⟨rfl, rfl⟩,
    (nothingStaged_recordCommand (syncedOnly_sync s) c).answered e .ok, ⟨rfl, rfl⟩, rfl⟩

/-! ## A command that is staged (R190 to R192) -/

theorem afterAccess_eq (p : Bool) : afterAccess p = if p then 0x01C0006F#32 else 0x00100073#32 := by
  cases p <;> rfl

/-- R192, log 11: the released hart fetches at `ENTRY_ABS`, which either `XLEN` holds. -/
theorem readPc_stage (ws : List Word32) (c : Word32) (h : Nat) (s : State) (k : Nat) :
    readPc (stage ws c h s) k = if k = h then BitVec.ofNat 64 (dmBase s.params) else readPc s k := by
  have hbound := (dmBase_bound s.params).2
  rw [exchAbs_eq] at hbound
  rw [← clipXlen_ofNat s.params (dmBase s.params) (by omega)]
  exact readPc_setPc h _ _ k

theorem readX_stage (ws : List Word32) (c : Word32) (h : Nat) (s : State) (k : Nat) (r : BitVec 5) :
    readX (stage ws c h s) k r = readX s k r :=
  readX_setPc h _ _ k r

theorem stored_stage (ws : List Word32) (c : Word32) (h : Nat) (s : State) :
    Stored s (stage ws c h s) 0 (ws.flatMap (littleEndian 4)) :=
  (stored_writeBytes s 0 _).congr (fun _ => rfl) fun a => readByte_stage ws c h s a

/-- R192: a command recorded by an idle engine and staged. -/
theorem stagedFor_stage {u : State} (h : NothingStaged s u) (hr : Recorded u c) (he : u.cmderr = .none)
    (ws : List Word32) : StagedFor s (stage ws c (selected s) u) c ws where
  entry := (stored_stage ws c (selected s) u).congr (fun a => (h.storage a).symm) fun _ => rfl
  nextAction := rfl
  actionExecuted := rfl
  busy := rfl
  cmderr := he
  recorded := hr
  control := { h.control with }
  synced := { h.synced with }
  pc := by rw [readPc_stage, if_pos rfl, h.outside.params]
  registers := fun k r => by rw [readX_stage, readX, readX, h.harts]
  otherPcs := fun k hk => by rw [readPc_stage, if_neg hk, readPc, readPc, h.harts]
  outside := { h.outside with }

theorem StagedFor.respond {t : State} {ws : List Word32} (h : StagedFor s t c ws) (r : Response) :
    StagedFor s (respond r t) c ws where
  entry := h.entry
  nextAction := h.nextAction
  actionExecuted := h.actionExecuted
  busy := h.busy
  cmderr := h.cmderr
  recorded := h.recorded
  control := { h.control with }
  synced := { h.synced with }
  pc := h.pc
  registers := h.registers
  otherPcs := h.otherPcs
  outside := { h.outside with }

/-- The instruction answers `ok` and releases the selected hart, for which it has staged `ws` (R192). -/
def Stages (i : Instr) (s : State) (c : Word32) (ws : List Word32) : Prop :=
  ∃ t, exec i s = .next t ∧ Answers t .ok [.release (selected s)] ∧ StagedFor s t c ws

theorem stages_of_effect {effect : State → State} {ws : List Word32} (hidle : EngineIdle s)
    (h : exec i s = .next (dmiWrite effect s))
    (heffect : effect (sync (clearPulses s)) = stage ws c (selected s) (recordCommand c (sync (clearPulses s)))) :
    Stages i s c ws :=
  ⟨_, exec_of_effect h heffect, ⟨rfl, rfl⟩,
    (stagedFor_stage (nothingStaged_recordCommand (syncedOnly_sync s) c) ⟨rfl, rfl⟩ hidle.2 ws).respond .ok⟩

/-! ## The classes on an idle engine with a halted hart (R194 to R200) -/

theorem whenAccepted_of_halted (act : Nat → State → State) (hidle : EngineIdle s)
    (hst : statusAfterSync s (selected s) = .halted) :
    whenAccepted c true act (sync (clearPulses s)) = act (selected s) (recordCommand c (sync (clearPulses s))) :=
  whenAccepted_of_passed true act hidle (by rw [hst]; rfl)

/-- R191: a 32-bit access stages its word and what follows it. -/
theorem stages_access32 {word : Word32} {p : Bool} (hidle : EngineIdle s)
    (hst : statusAfterSync s (selected s) = .halted) (h : exec i s = .next (dmiWrite (access32 word c p) s)) :
    Stages i s c [word, if p then 0x01C0006F#32 else 0x00100073#32] :=
  stages_of_effect hidle h (afterAccess_eq p ▸ whenAccepted_of_halted _ hidle hst)

/-- R196, R197: with `XLEN = 64` a 64-bit access does the same. -/
theorem access64_of_xlen64 (word c : Word32) (p : Bool) {u : State} (hx : u.params.xlen = .x64) :
    access64 word c p u = access32 word c p u :=
  whenAccepted_congr (by simp only [recordCommand_params, hx])

/-- R200: with `XLEN = 32` a 64-bit access is refused. -/
theorem access64_of_xlen32 (word c : Word32) (p : Bool) {u : State} (hx : u.params.xlen = .x32) :
    access64 word c p u = unsupported c true u :=
  whenAccepted_congr (by simp only [recordCommand_params, hx])

theorem stages_access64 {word : Word32} {p : Bool} (hidle : EngineIdle s)
    (hst : statusAfterSync s (selected s) = .halted) (hx : s.params.xlen = .x64)
    (h : exec i s = .next (dmiWrite (access64 word c p) s)) :
    Stages i s c [word, if p then 0x01C0006F#32 else 0x00100073#32] :=
  stages_access32 hidle hst (h.trans (congrArg _ (dmiWrite_congr (access64_of_xlen64 word c p hx))))

theorem recordsOnly_unsupported (hidle : EngineIdle s) (hst : statusAfterSync s (selected s) = .halted)
    (h : exec i s = .next (dmiWrite (unsupported c true) s)) : RecordsOnly i s c .notsup :=
  recordsOnly_of_effect h (whenAccepted_of_halted _ hidle hst)

theorem recordsOnly_access64 {word : Word32} {p : Bool} (hidle : EngineIdle s)
    (hst : statusAfterSync s (selected s) = .halted) (hx : s.params.xlen = .x32)
    (h : exec i s = .next (dmiWrite (access64 word c p) s)) : RecordsOnly i s c .notsup :=
  recordsOnly_unsupported hidle hst (h.trans (congrArg _ (dmiWrite_congr (access64_of_xlen32 word c p hx))))

end Sys2Proof.Machine
end

section
/-! The statements of 41_abstract_commands.md, settled. -/

namespace Sys2Proof.Machine

/-- Settles O24: the hart is halted, so the access word and what follows it are staged. -/
theorem access32Stages : Obligations.Access32Stages := by
  intro s b23 b19 p r hidle hst
  obtain ⟨hsw, -, hlw, -⟩ := stager_words s.params r
  rw [← hsw, ← hlw]
  exact ⟨stages_access32 hidle hst rfl, stages_access32 hidle hst rfl⟩

/-- Settles O25: with `XLEN = 64` the doubleword accesses are staged in the same way. -/
theorem access64Stages : Obligations.Access64Stages := by
  intro s b23 b19 p r hidle hst hx
  obtain ⟨-, hsd, -, hld⟩ := stager_words s.params r
  rw [← hsd, ← hld]
  exact ⟨stages_access64 hidle hst hx rfl, stages_access64 hidle hst hx rfl⟩

/-- Settles O26: the one staged word is the jump of R278 from the first entry word. -/
theorem executeStages : Obligations.ExecuteStages := by
  intro s hi lo hidle hst
  have hjump : jumpFromFirst = 0x0200006F#32 := rfl
  exact stages_of_effect hidle rfl (hjump ▸ whenAccepted_of_halted _ hidle hst)

/-- Settles O27: `cmderr`, which is NONE on an idle engine, keeps its value. -/
theorem nopIsOnlyRecorded : Obligations.NopIsOnlyRecorded := by
  intro s hi lo hidle hst
  have hkeeps : setCmderr .none (recordCommand (executeWord false hi lo) (sync (clearPulses s))) =
      recordCommand (executeWord false hi lo) (sync (clearPulses s)) := by
    rw [← hidle.2]; rfl
  exact recordsOnly_of_effect rfl ((whenAccepted_of_halted _ hidle hst).trans hkeeps.symm)

/-- Settles O28: the class is refused, and so is the 64-bit access that `XLEN = 32` puts into it. -/
theorem unsupportedAccess : Obligations.UnsupportedAccess := fun _ hidle hst =>
  ⟨fun _ => recordsOnly_unsupported hidle hst rfl,
    fun hx _ _ _ _ => ⟨recordsOnly_access64 hidle hst hx rfl, recordsOnly_access64 hidle hst hx rfl⟩⟩

/-- Settles O29: words with another `cmdtype` than 0 pass every status but NOTEXIST, and are then refused. -/
theorem quickAndUnknownAreRefused : Obligations.QuickAndUnknownAreRefused := by
  intro s i c hcarries hc hidle hexists
  obtain ⟨act, hexec, hact⟩ := runsClass_of_carriesCommand hcarries s
  have hpassed : hartRefusal s.params (decide (cmdtype c = 0)) (statusAfterSync s (selected s)) = none := by
    rw [decide_eq_false hc]
    cases hst : statusAfterSync s (selected s) with
    | notexist => exact absurd hst (statusAfterSync_ne_notexist hexists)
    | halted | running | unavailable => rfl
  exact recordsOnly_of_effect hexec ((whenAccepted_of_passed _ act hidle hpassed).trans (by rw [hact hc]))

/-- Settles O30: P1 comes before anything that the class does. -/
theorem commandWhileBusy : Obligations.CommandWhileBusy := by
  intro s i c hcarries hbusy
  obtain ⟨act, hexec, -⟩ := runsClass_of_carriesCommand hcarries s
  have heffect := whenAccepted_of_busy (s := sync (clearPulses s)) (c := c) (decide (cmdtype c = 0)) act hbusy
  have h := syncedOnly_sync s
  exact ⟨_, exec_of_effect hexec heffect, ⟨rfl, rfl⟩, rfl,
    { h.engine with }, { h.control with }, { h.synced with }, h.storage, h.harts, { h.outside with }⟩

/-- Settles O31: P2 returns the state that `Sync()` left. -/
theorem commandWhileErrorStands : Obligations.CommandWhileErrorStands := by
  intro s i c hcarries hbusy herror
  obtain ⟨act, hexec, -⟩ := runsClass_of_carriesCommand hcarries s
  have heffect := whenAccepted_of_error (s := sync (clearPulses s)) (c := c) (decide (cmdtype c = 0)) act hbusy herror
  exact ⟨_, exec_of_effect hexec heffect, ⟨rfl, rfl⟩,
    (syncedOnly_sync s).respond .ok⟩

theorem noHartError_ne_none (code : NoHartCode) : noHartError code ≠ .none := by
  cases code <;> decide

/-- Settles O32: the status NOTEXIST refuses every class, with the error that the parameter stands for. -/
theorem commandToNoSuchHart : Obligations.CommandToNoSuchHart := by
  intro s i c hcarries hidle hexists
  obtain ⟨act, hexec, -⟩ := runsClass_of_carriesCommand hcarries s
  have hrefused : hartRefusal s.params (decide (cmdtype c = 0)) (statusAfterSync s (selected s)) =
      some (noHartError s.params.noHart) := by
    rw [statusAfterSync_of_not_exists hexists]; rfl
  obtain ⟨t, ht, hanswers, hnothing, hrecorded, hcmderr⟩ :=
    recordsOnly_of_effect hexec (whenAccepted_of_refused _ act hidle hrefused)
  exact ⟨t, ht, hanswers, hnothing, hrecorded, hcmderr, hcmderr ▸ noHartError_ne_none _, hnothing.busy.trans hidle.1⟩

/-- Settles O33: P5 refuses a word with `cmdtype = 0` before its class is looked at. -/
theorem commandToHartNotHalted : Obligations.CommandToHartNotHalted := by
  intro s i c hcarries hidle hc hst
  obtain ⟨act, hexec, -⟩ := runsClass_of_carriesCommand hcarries s
  have hrefused : hartRefusal s.params (decide (cmdtype c = 0)) (statusAfterSync s (selected s)) = some .haltresume := by
    rw [decide_eq_true hc]
    rcases hst with hst | hst <;> rw [hst] <;> rfl
  exact recordsOnly_of_effect hexec (whenAccepted_of_refused _ act hidle hrefused)

end Sys2Proof.Machine
end

section
/-! SUPPORT. A staged access as a hart carries it out (R273 to R281): what each of its instructions does when it stands in the
module, and the path of R280 from the released hart back to the debug ROM. -/

namespace Sys2Proof.Machine

variable {s t u : State} {h off : Nat} {r : BitVec 5} {wide p : Bool} {rest : List Request}

/-! ## Words among bytes (R85) -/

/-- A word stored, read back by its four bytes. -/
theorem read32_of_stored {i : Nat} {bs : List Byte} {v : Word32} (hst : Stored s t off bs) (hi : 4 * i + 4 ≤ bs.length)
    (hv : ∀ j, j < 4 → bs.getD (4 * i + j) 0#8 = v.extractLsb' (8 * j) 8) : read32 t (off + 4 * i) = v := by
  have hbyte : ∀ j, j < 4 → readByte t (off + 4 * i + j) = v.extractLsb' (8 * j) 8 := fun j hj => by
    rw [hst, if_pos (by omega), show off + 4 * i + j - off = 4 * i + j by omega]
    exact hv j hj
  have h0 := hbyte 0 (by omega)
  rw [Nat.add_zero] at h0
  rw [read32, h0, hbyte 1 (by omega), hbyte 2 (by omega), hbyte 3 (by omega)]
  exact word_of_bytes v

/-- R192: word `i` of a run of words that was stored. -/
theorem read32_of_stored_words {ws : List Word32} (hst : Stored s t off (ws.flatMap (littleEndian 4))) (i : Nat)
    (hi : i < ws.length) : read32 t (off + 4 * i) = ws[i] := by
  have hlen := words_length ws
  refine read32_of_stored hst (by omega) fun j hj => ?_
  rw [List.getD_eq_getElem _ _ (by omega)]
  exact words_getElem ws i j hi hj (by omega)

/-- R85: word `i` of a value that was stored. -/
theorem read32_of_stored_value {w n : Nat} {v : BitVec w} (hst : Stored s t off (littleEndian n v)) (i : Nat)
    (hi : 4 * i + 4 ≤ n) : read32 t (off + 4 * i) = v.extractLsb' (32 * i) 32 := by
  have hlen := littleEndian_length n v
  refine read32_of_stored hst (by omega) fun j hj => ?_
  rw [List.getD_eq_getElem _ _ (by omega), littleEndian_getElem]
  apply BitVec.eq_of_getLsbD_eq
  intro k hk
  simp only [BitVec.getLsbD_extractLsb', hk, decide_true, Bool.true_and, show 8 * j + k < 32 by omega,
    show 8 * (4 * i + j) + k = 32 * i + (8 * j + k) by omega]

theorem SameStorage.read32_eq (hs : SameStorage s t) (a : Nat) : read32 t a = read32 s a :=
  read32_congr s t a fun _ _ => hs _

theorem read32_of_stored_outside {bs : List Byte} (hst : Stored s t off bs) {a : Nat}
    (ha : a + 4 ≤ off ∨ off + bs.length ≤ a) : read32 t a = read32 s a :=
  read32_congr s t a fun i hi => by rw [hst, if_neg (by omega)]

/-- R85: bytes put together from the lowest up are fields side by side. -/
theorem setWidth_or_shiftLeft {m n : Nat} (lo : BitVec m) (hi : BitVec n) :
    (lo.setWidth 64 ||| (hi.setWidth 64 <<< m) : XWord) = (hi ++ lo).setWidth 64 := by
  apply BitVec.eq_of_getLsbD_eq
  intro i hi64
  rw [BitVec.getLsbD_or, BitVec.getLsbD_shiftLeft, BitVec.getLsbD_setWidth, BitVec.getLsbD_setWidth,
    BitVec.getLsbD_setWidth, BitVec.getLsbD_append]
  by_cases hm : i < m
  · simp [hm, hi64]
  · simp [hm, hi64, BitVec.getLsbD_of_ge lo i (by omega), show i - m < 64 by omega]

theorem ofLittleEndian_append (bs cs : List Byte) :
    ofLittleEndian (bs ++ cs) = ofLittleEndian bs ||| (ofLittleEndian cs <<< (8 * bs.length)) := by
  induction bs with
  | nil => simp [ofLittleEndian]
  | cons b bs ih =>
    rw [List.cons_append, ofLittleEndian, ih, BitVec.shiftLeft_or_distrib, ← BitVec.shiftLeft_add, ofLittleEndian,
      BitVec.or_assoc, List.length_cons]
    rfl

/-- R275: four bytes loaded are the word that stands there. -/
theorem ofLittleEndian_readBytes_four (s : State) (a : Nat) :
    ofLittleEndian (readBytes s a 4) = (read32 s a).setWidth 64 := by
  have hbytes : readBytes s a 4 = [readByte s a, readByte s (a + 1), readByte s (a + 2), readByte s (a + 3)] := rfl
  have hlast : ofLittleEndian [readByte s (a + 3)] = (readByte s (a + 3)).setWidth 64 := by simp [ofLittleEndian]
  rw [hbytes, ofLittleEndian, ofLittleEndian, ofLittleEndian, hlast, setWidth_or_shiftLeft, setWidth_or_shiftLeft,
    setWidth_or_shiftLeft]
  rfl

theorem readBytes_add (s : State) (a m n : Nat) : readBytes s a (m + n) = readBytes s a m ++ readBytes s (a + m) n := by
  simp [readBytes, List.range_add, Nat.add_assoc]

/-- R276: eight bytes loaded are the two words that stand there, the second one high. -/
theorem ofLittleEndian_readBytes_eight (s : State) (a : Nat) :
    ofLittleEndian (readBytes s a 8) = read32 s (a + 4) ++ read32 s a := by
  rw [show 8 = 4 + 4 from rfl, readBytes_add, ofLittleEndian_append, ofLittleEndian_readBytes_four,
    ofLittleEndian_readBytes_four, show (readBytes s a 4).length = 4 from rfl]
  exact (setWidth_or_shiftLeft _ _).trans (BitVec.setWidth_eq _)

/-! ## The accesses of the stager (R272 to R276) -/

/-- R272: with base `x0` the address is the immediate itself. -/
theorem effectiveAddress_exch (s : State) (h : Nat) : effectiveAddress s h 0#5 (exchImm s.params) = exchAbs s.params := by
  have hbound := (dmBase_bound s.params).2
  have himm : (exchImm s.params).signExtend 64 = BitVec.ofNat 64 (exchAbs s.params) := by
    rw [exchImm, BitVec.signExtend_eq_setWidth_of_msb_false]
    · apply BitVec.eq_of_toNat_eq
      simp only [BitVec.toNat_setWidth, BitVec.toNat_ofNat]
      omega
    · rw [BitVec.msb_eq_false_iff_two_mul_lt, BitVec.toNat_ofNat]
      omega
  have hzero : readX s h 0#5 = 0 := if_pos rfl
  rw [effectiveAddress, hzero, himm, zero_add, clipXlen_ofNat _ _ (by omega), BitVec.toNat_ofNat]
  omega

theorem exchAbs_sub (q : Params) : exchAbs q - dmBase q = 0x80 := by rw [exchAbs_eq, Nat.add_sub_cancel_left]

theorem inModule_exchAbs (q : Params) : inModule q (exchAbs q) = true := by
  rw [inModule, exchAbs_eq, Config.busSize, Bool.and_eq_true, decide_eq_true_eq, decide_eq_true_eq]
  omega

/-- R232: the staged store is served. -/
theorem hartStore_exch {n : Nat} (hpos : 0 < n) (hle : n ≤ 0x20) (v : XWord) (s : State) :
    hartStore s.stepping (effectiveAddress s s.stepping 0#5 (exchImm s.params)) (littleEndian n v) (clearPulses s) =
      advancePc s.stepping (respond .ok (writeBytes (clearPulses s) 0x80 (littleEndian n v))) := by
  have hserved : storeServed 0x80 (littleEndian n v).length = true := by
    rw [littleEndian_length]
    exact (insideWritable_iff _ _).1 ⟨hpos, .inr ⟨by omega, by omega⟩⟩
  rw [effectiveAddress_exch, hartStore, clearPulses_params, exchAbs_sub, if_pos (inModule_exchAbs _), if_pos hserved,
    busStore_eq, if_pos hserved]

/-- R230: the staged load is served. -/
theorem hartLoad_exch {n : Nat} (hpos : 0 < n) (hle : n ≤ 0x20) (extend : XWord → XWord) (rd : BitVec 5) (s : State) :
    hartLoad s.stepping (effectiveAddress s s.stepping 0#5 (exchImm s.params)) n extend rd (clearPulses s) =
      advancePc s.stepping (writeX s.stepping rd (extend (ofLittleEndian (readBytes (clearPulses s) 0x80 n)))
        (respond (.bytes (readBytes (clearPulses s) 0x80 n)) (clearPulses s))) := by
  have hserved : (regionOf 0x80 n).isSome = true := (inside_iff _ _).1 (by unfold Inside; omega)
  rw [effectiveAddress_exch, hartLoad, clearPulses_params, exchAbs_sub, if_pos (inModule_exchAbs _), if_pos hserved,
    busLoad_eq, if_pos hserved]

/-- R274, R276: SD and LD exist with `XLEN = 64`. -/
theorem onXlen64_of_xlen64 (act : State → State) (hx : s.params.xlen = .x64) :
    onXlen64 act (clearPulses s) = act (clearPulses s) := by
  simp only [onXlen64, clearPulses_params, hx]

/-- The width of an access in bytes. -/
def accessBytes (wide : Bool) : Nat := if wide then 8 else 4

/-- The store that the stager writes for a register read. -/
def storeInstr (q : Params) (wide : Bool) (r : BitVec 5) : Instr :=
  if wide then .sd (exchImm q) r 0#5 else .sw (exchImm q) r 0#5

/-- The load that the stager writes for a register write. -/
def loadInstr (q : Params) (wide : Bool) (r : BitVec 5) : Instr :=
  if wide then .ld (exchImm q) 0#5 r else .lw (exchImm q) 0#5 r

theorem decode_storeInstr (q : Params) (wide : Bool) (r : BitVec 5) :
    decode (.hart (storeWordAt (exchAddress q) r (if wide then 3#32 else 2#32))) = some (storeInstr q wide r) := by
  obtain ⟨hsw, hsd, -, -⟩ := stager_words q r
  cases wide with
  | false => exact hsw ▸ decodeHart_sTypeWord (exchImm q) r 0#5 2#3
  | true => exact hsd ▸ decodeHart_sTypeWord (exchImm q) r 0#5 3#3

theorem decode_loadInstr (q : Params) (wide : Bool) (r : BitVec 5) :
    decode (.hart (loadWordAt (exchAddress q) r (if wide then 3#32 else 2#32))) = some (loadInstr q wide r) := by
  obtain ⟨-, -, hlw, hld⟩ := stager_words q r
  cases wide with
  | false => exact hlw ▸ decodeHart_iTypeWord (exchImm q) 0#5 r 2#3
  | true => exact hld ▸ decodeHart_iTypeWord (exchImm q) 0#5 r 3#3

/-- R273, R274: the staged store puts the register into the exchange buffer. -/
def storeToExch (wide : Bool) (r : BitVec 5) (h : Nat) (s : State) : State :=
  advancePc h (respond .ok (writeBytes s 0x80 (littleEndian (accessBytes wide) (readX s h r))))

theorem exec_storeInstr (hx : wide = true → s.params.xlen = .x64) :
    exec (storeInstr s.params wide r) s = .next (storeToExch wide r s.stepping (clearPulses s)) := by
  cases wide with
  | false => exact congrArg Host.Outcome.next (hartStore_exch (by decide) (by decide) _ s)
  | true =>
    exact congrArg Host.Outcome.next
      ((onXlen64_of_xlen64 _ (hx rfl)).trans (hartStore_exch (by decide) (by decide) _ s))

/-- The value that the staged load brings into the register, before the register clips it. -/
def loadedValue (s : State) (wide : Bool) : XWord :=
  if wide then read32 s 0x84 ++ read32 s 0x80 else (read32 s 0x80).signExtend 64

theorem SameStorage.loadedValue_eq (hs : SameStorage s t) (wide : Bool) : loadedValue t wide = loadedValue s wide := by
  rw [loadedValue, loadedValue, hs.read32_eq, hs.read32_eq]

/-- R275, R276: the staged load brings the value into the register. -/
def loadFromExch (wide : Bool) (r : BitVec 5) (h : Nat) (s : State) : State :=
  advancePc h (writeX h r (loadedValue s wide) (respond (.bytes (readBytes s 0x80 (accessBytes wide))) s))

/-- R275: a word loaded, extended. -/
theorem signExtendWord_readBytes (s : State) (a : Nat) :
    signExtendWord (ofLittleEndian (readBytes s a 4)) = (read32 s a).signExtend 64 := by
  rw [ofLittleEndian_readBytes_four, signExtendWord, BitVec.setWidth_setWidth_of_le _ (by decide), BitVec.setWidth_eq]

theorem exec_loadInstr (hx : wide = true → s.params.xlen = .x64) :
    exec (loadInstr s.params wide r) s = .next (loadFromExch wide r s.stepping (clearPulses s)) := by
  cases wide with
  | false =>
    have hload := hartLoad_exch (n := 4) (by decide) (by decide) signExtendWord r s
    rw [signExtendWord_readBytes] at hload
    exact congrArg Host.Outcome.next hload
  | true =>
    have hload := hartLoad_exch (n := 8) (by decide) (by decide) (fun v => v) r s
    rw [ofLittleEndian_readBytes_eight] at hload
    exact congrArg Host.Outcome.next ((onXlen64_of_xlen64 _ (hx rfl)).trans hload)

/-- The staged load changes the contexts and the answer alone. -/
theorem loadFromExch_eq (wide : Bool) (r : BitVec 5) (h : Nat) (s : State) :
    loadFromExch wide r h s = { s with
      harts := (loadFromExch wide r h s).harts
      response := .bytes (readBytes s 0x80 (accessBytes wide)) } := by
  rw [loadFromExch, writeX_eq]
  rfl

/-- R16: writing a register moves no pc. -/
theorem readPc_writeX (h : Nat) (r : BitVec 5) (v : XWord) (s : State) (k : Nat) : readPc (writeX h r v s) k = readPc s k := by
  unfold writeX readPc
  split
  · rfl
  · rw [hartContext_setContext]
    split
    next hk => rw [hk]
    next => rfl

theorem readPc_loadFromExch (wide : Bool) (r : BitVec 5) (h : Nat) (s : State) (k : Nat) :
    readPc (loadFromExch wide r h s) k = if k = h then clipXlen s.params (readPc s h + 4) else readPc s k := by
  rw [loadFromExch, advancePc, readPc_setPc, readPc_writeX, readPc_writeX, writeX_eq]
  rfl

theorem readX_loadFromExch (wide : Bool) (r : BitVec 5) (h : Nat) (s : State) (k : Nat) (q : BitVec 5) :
    readX (loadFromExch wide r h s) k q =
      if k = h ∧ q = r ∧ r ≠ 0#5 then clipXlen s.params (loadedValue s wide) else readX s k q := by
  rw [loadFromExch, advancePc, readX_setPc, readX_writeX]
  rfl

/-! ## A hart on its way (R280) -/

/-- From `s` the command has been staged, and hart `h`, which carries it, has come to the word at offset `off` of the module;
`rest` are the requests still to be taken. What the access itself has moved is not said here. -/
structure InFlight (s t : State) (h off : Nat) (rest : List Request) : Prop where
  carries : Carries t h
  cmderr : t.cmderr = .none
  pc : readPc t h = BitVec.ofNat 64 (dmBase s.params + off)
  otherPcs : OtherPcsSame s t h
  control : SameControl s t
  synced : Synced s t
  params : t.params = s.params
  pending : t.pending = rest

/-- R281: a hart on its way executes the word at which it stands. The effect is told on a state `v` that differs from `t` in
the request taken and in what a transaction starts with (`stepping`, no pulse). -/
theorem InFlight.executes {i : Instr} {effect : Nat → State → State} (f : InFlight s t h off (.hartStep h :: rest))
    (hin : Inside off 4) (hd : decode (.hart (read32 t off)) = some i)
    (hexec : ∀ w : State, w.params = s.params → exec i w = .next (effect w.stepping (clearPulses w))) :
    ∃ v, step t = .next (effect h v) ∧ InFlight s v h off rest ∧ SameStorage t v ∧ SameRegisters t v := by
  have hlt := t.params.dmBlock.isLt
  have hoff : off < 0xA0 := by unfold Inside at hin; omega
  have hpc : (readPc t h).toNat = dmBase t.params + off := by
    rw [f.pc, ← f.params, BitVec.toNat_ofNat, dmBase]
    omega
  have hstep := stepRunsTheDecodedInstruction.2 t rest h off i f.pending hpc hin hd
  refine ⟨clearPulses { t with pending := rest, stepping := h }, hstep.trans (hexec _ f.params), ?_, fun _ => rfl,
    fun _ _ => rfl⟩
  exact {
    carries := f.carries
    cmderr := f.cmderr
    pc := f.pc
    otherPcs := f.otherPcs
    control := { f.control with }
    synced := { f.synced with }
    params := f.params
    pending := rfl }

/-- R12: an address of the module and a step forward from it stay inside either `XLEN`. -/
theorem clipXlen_module_add (q : Params) {off d : Nat} (hd : off + d < 0xA0) :
    clipXlen q (BitVec.ofNat 64 (dmBase q + off) + BitVec.ofNat 64 d) = BitVec.ofNat 64 (dmBase q + (off + d)) := by
  have hlt := q.dmBlock.isLt
  rw [← BitVec.ofNat_add, clipXlen_ofNat q _ (by rw [dmBase]; omega), Nat.add_assoc]

/-- From `t` to `u` nothing changes but the bytes, the harts' contexts and the answer. -/
def HartOnly (t u : State) : Prop :=
  ∃ mem harts response, u = { t with mem := mem, harts := harts, response := response }

/-- A hart on its way moves on. -/
theorem InFlight.moved {d : Nat} (f : InFlight s t h off rest) (hd : off + d < 0xA0) (hu : HartOnly t u)
    (hpc : ∀ k, readPc u k = if k = h then clipXlen t.params (readPc t h + BitVec.ofNat 64 d) else readPc t k) :
    InFlight s u h (off + d) rest := by
  obtain ⟨_, _, _, rfl⟩ := hu
  exact {
    carries := f.carries
    cmderr := f.cmderr
    pc := by rw [hpc, if_pos rfl, f.pc, f.params, clipXlen_module_add s.params hd]
    otherPcs := fun k hk => ((hpc k).trans (if_neg hk)).trans (f.otherPcs k hk)
    control := { f.control with }
    synced := { f.synced with }
    params := f.params
    pending := f.pending }

/-! ## One instruction of the path -/

/-- R273, R274: the access of a register read. -/
theorem InFlight.store (f : InFlight s t h 0 (.hartStep h :: rest)) (hx : wide = true → s.params.xlen = .x64)
    (hw : read32 t 0 = storeWordAt (exchAddress s.params) r (if wide then 3#32 else 2#32)) :
    ∃ u, step t = .next u ∧ InFlight s u h 4 rest ∧ SameRegisters t u ∧
      Stored t u 0x80 (littleEndian (accessBytes wide) (readX t h r)) := by
  obtain ⟨v, hstep, fv, hstorage, hregisters⟩ := f.executes (by unfold Inside; omega)
    (hw ▸ decode_storeInstr s.params wide r) fun w hp => hp ▸ exec_storeInstr (s := w) (hp ▸ hx)
  refine ⟨_, hstep, fv.moved (d := 4) (by decide) ⟨_, _, _, rfl⟩ fun k => readPc_setPc h _ _ k, fun k q => ?_, ?_⟩
  · exact (readX_setPc h _ _ k q).trans (hregisters k q)
  · rw [← hregisters]
    exact (stored_writeBytes v 0x80 _).congr (fun a => (hstorage a).symm) fun _ => rfl

/-- R275, R276: the access of a register write. -/
theorem InFlight.load (f : InFlight s t h 0 (.hartStep h :: rest)) (hx : wide = true → s.params.xlen = .x64)
    (hw : read32 t 0 = loadWordAt (exchAddress s.params) r (if wide then 3#32 else 2#32)) :
    ∃ u, step t = .next u ∧ InFlight s u h 4 rest ∧ SameStorage t u ∧
      ∀ k q, readX u k q = if k = h ∧ q = r ∧ r ≠ 0#5 then clipXlen s.params (loadedValue t wide) else readX t k q := by
  obtain ⟨v, hstep, fv, hstorage, hregisters⟩ := f.executes (by unfold Inside; omega)
    (hw ▸ decode_loadInstr s.params wide r) fun w hp => hp ▸ exec_loadInstr (s := w) (hp ▸ hx)
  refine ⟨_, hstep, fv.moved (d := 4) (by decide) ⟨_, _, _, loadFromExch_eq ..⟩ fun k => readPc_loadFromExch ..,
    fun a => ?_, fun k q => ?_⟩
  · rw [loadFromExch_eq]
    exact hstorage a
  · rw [readX_loadFromExch, fv.params, hregisters, hstorage.loadedValue_eq]

/-- R278: the jump of entry word 1 leads to the program buffer. -/
theorem InFlight.jump (f : InFlight s t h 4 (.hartStep h :: rest)) (hw : read32 t 4 = 0x01C0006F#32) :
    ∃ u, step t = .next u ∧ InFlight s u h 0x20 rest ∧ SameStorage t u ∧ SameRegisters t u := by
  have hd : decode (.hart (read32 t 4)) = some (.jal 0x1C#21) := by rw [hw]; decide
  obtain ⟨v, hstep, fv, hstorage, hregisters⟩ := f.executes (effect := fun k v => respond .none (jumpBy k 0x1C#21 v))
    (by unfold Inside; omega) hd fun _ _ => rfl
  exact ⟨_, hstep, fv.moved (d := 0x1C) (by decide) ⟨_, _, _, rfl⟩ fun k => readPc_setPc h _ _ k, hstorage,
    fun k q => (readX_setPc h _ _ k q).trans (hregisters k q)⟩

/-- R251, R277: from `t`, the last state in flight, the action of `s` has completed and the hart is back in the debug ROM. -/
structure Landed (s t u : State) (h : Nat) (rest : List Request) : Prop where
  pending : u.pending = rest
  busy : u.busy = false
  cmderr : u.cmderr = .none
  entry : ∀ a, a < 0x10 → readByte u a = imageByte s.params.romEntry.toList a
  bytes : ∀ a, 0x10 ≤ a → readByte u a = readByte t a
  registers : SameRegisters t u
  pc : InDebugRom s.params (readPc u h)
  otherPcs : OtherPcsSame s u h
  control : SameControl s u
  synced : Synced s u

/-- What completion leaves alone may be told from any state that has the same bytes and registers. -/
theorem Landed.congr {v : State} (land : Landed s v u h rest) (hstorage : SameStorage t v)
    (hregisters : SameRegisters t v) : Landed s t u h rest :=
  { land with
    bytes := fun a ha => (land.bytes a ha).trans (hstorage a)
    registers := fun k q => (land.registers k q).trans (hregisters k q) }

/-- R251, R277: the hart that carries the action traps. -/
theorem InFlight.landed (f : InFlight s t h off rest) :
    Landed s t (respond .none (returnToRom h (completeExecuted t))) h rest := by
  have hbytes : ∀ a, readByte (respond .none (returnToRom h (completeExecuted t))) a = _ :=
    (completed_completeExecuted t f.carries.1).entry
  have hpc := readPc_returnToRom h (completeExecuted t)
  have hdone : completeExecuted t = { restoreEntry t with actionExecuted := true, busy := false } := if_pos f.carries.1
  rw [hdone] at hbytes hpc ⊢
  exact {
    pending := f.pending
    busy := rfl
    cmderr := f.cmderr
    entry := fun a ha => by rw [hbytes, if_pos ha, f.params]
    bytes := fun a ha => by rw [hbytes, if_neg (by omega)]
    registers := fun k q => readX_setPc h _ _ k q
    pc := f.params ▸ hpc
    otherPcs := fun k hk => ((readPc_setPc h _ _ k).trans (if_neg hk)).trans (f.otherPcs k hk)
    control := { f.control with }
    synced := { f.synced with } }

theorem InFlight.trap (f : InFlight s t h off (.hartStep h :: rest)) (hin : Inside off 4)
    (hw : read32 t off = 0x00100073#32) : ∃ u, step t = .next u ∧ Landed s t u h rest := by
  have hd : decode (.hart (read32 t off)) = some .ebreak := by rw [hw]; decide
  obtain ⟨v, hstep, fv, hstorage, hregisters⟩ := f.executes (effect := fun k v => respond .none (trapToDebugRom k v))
    hin hd fun _ _ => rfl
  have hcarries : carriesAction v h = true := (carries_iff v h).1 fv.carries
  have htrap : trapToDebugRom h v = returnToRom h (completeExecuted v) := by
    rw [trapToDebugRom, underDebugger, hcarries]
    rfl
  exact ⟨_, hstep.trans (htrap ▸ rfl), fv.landed.congr hstorage hregisters⟩

/-! ## The whole path -/

theorem run_of_step (k : Nat) (hs : step s = .next t) : core.run (k + 1) s = core.run k t := by
  have hcore : core.step s = .next t := hs
  simp only [Host.Core.run, hcore]

theorem run_one (hs : step s = .next t) : core.run 1 s = .next t := run_of_step 0 hs

/-- R280: after the access the hart traps at once, or jumps to a program buffer that traps. -/
theorem InFlight.finish (f : InFlight s t h 4 (List.replicate (if p then 2 else 1) (.hartStep h) ++ rest))
    (hw : read32 t 4 = if p then 0x01C0006F#32 else 0x00100073#32) (hprog : p = true → read32 t 0x20 = 0x00100073#32) :
    ∃ u, core.run (if p then 2 else 1) t = .next u ∧ Landed s t u h rest := by
  cases p with
  | false =>
    obtain ⟨u, hstep, hland⟩ := f.trap (by unfold Inside; omega) hw
    exact ⟨u, run_one hstep, hland⟩
  | true =>
    obtain ⟨v, hjump, fv, hstorage, hregisters⟩ := f.jump hw
    obtain ⟨u, htrap, hland⟩ := fv.trap (by unfold Inside; omega) ((hstorage.read32_eq 0x20).trans (hprog rfl))
    exact ⟨u, (run_of_step 1 hjump).trans (run_one htrap), hland.congr hstorage hregisters⟩

/-- R192, R281 (a): the state that a staged access leaves, with its two words in the entry region and everything else but
the tracker and the engine as in `s`. -/
structure Launched (s t : State) (word after : Word32) (rest : List Request) : Prop where
  inFlight : InFlight s t (selected s) 0 rest
  first : read32 t 0 = word
  second : read32 t 4 = after
  bytes : ∀ a, 0x10 ≤ a → readByte t a = readByte s a
  registers : SameRegisters s t

theorem StagedFor.launched {c word after : Word32} (hs : StagedFor { s with pending := rest } t c [word, after]) :
    Launched s t word after rest where
  inFlight := {
    carries := ⟨hs.busy, _, hs.nextAction, rfl⟩
    cmderr := hs.cmderr
    pc := hs.pc
    otherPcs := hs.otherPcs
    control := { hs.control with }
    synced := { hs.synced with }
    params := hs.outside.params
    pending := hs.outside.pending }
  first := read32_of_stored_words hs.entry 0 Nat.two_pos
  second := read32_of_stored_words hs.entry 1 Nat.one_lt_two
  bytes := fun a ha => by
    have hlen : ([word, after].flatMap (littleEndian 4)).length = 8 := words_length [word, after]
    exact (hs.entry a).trans (if_neg (by omega))
  registers := hs.registers

/-- R148, R181: a request that carries a command word of some row runs the row. -/
theorem launched_of_stages {i : Instr} {c word after : Word32} (hp : s.pending = .packet (encode i) :: rest)
    (hwf : i.wf = true) (hs : Stages i { s with pending := rest } c [word, after]) :
    ∃ t, step s = .next t ∧ Launched s t word after rest := by
  obtain ⟨t, hexec, -, hstaged⟩ := hs
  exact ⟨t, (stepRunsTheDecodedInstruction.1 s rest _ i hp (decodeOfEncode i hwf)).trans hexec, hstaged.launched⟩

theorem Launched.read32_eq {word after : Word32} (l : Launched s t word after rest) {a : Nat} (ha : 0x10 ≤ a) :
    read32 t a = read32 s a :=
  read32_congr s t a fun _ _ => l.bytes _ (by omega)

/-- R194, R196: the request of a register read, with the words that it stages. -/
theorem launched_read {b23 b19 : Bool} (hidle : EngineIdle s) (hst : statusAfterSync s (selected s) = .halted)
    (hx : wide = true → s.params.xlen = .x64)
    (hp : s.pending = .packet (encode (if wide then .arRead64 b23 b19 p r else .arRead32 b23 b19 p r)) :: rest) :
    ∃ t, step s = .next t ∧ Launched s t (storeWordAt (exchAddress s.params) r (if wide then 3#32 else 2#32))
      (if p then 0x01C0006F#32 else 0x00100073#32) rest := by
  cases wide with
  | false => exact launched_of_stages hp rfl (access32Stages { s with pending := rest } b23 b19 p r hidle hst).1
  | true => exact launched_of_stages hp rfl (access64Stages { s with pending := rest } b23 b19 p r hidle hst (hx rfl)).1

/-- R195, R197: the request of a register write, with the words that it stages. -/
theorem launched_write {b23 b19 : Bool} (hidle : EngineIdle s) (hst : statusAfterSync s (selected s) = .halted)
    (hx : wide = true → s.params.xlen = .x64)
    (hp : s.pending = .packet (encode (if wide then .arWrite64 b23 b19 p r else .arWrite32 b23 b19 p r)) :: rest) :
    ∃ t, step s = .next t ∧ Launched s t (loadWordAt (exchAddress s.params) r (if wide then 3#32 else 2#32))
      (if p then 0x01C0006F#32 else 0x00100073#32) rest := by
  cases wide with
  | false => exact launched_of_stages hp rfl (access32Stages { s with pending := rest } b23 b19 p r hidle hst).2
  | true => exact launched_of_stages hp rfl (access64Stages { s with pending := rest } b23 b19 p r hidle hst (hx rfl)).2

theorem replicate_hartStep (p : Bool) (h : Nat) (rest : List Request) :
    List.replicate (if p then 3 else 2) (.hartStep h) ++ rest =
      .hartStep h :: (List.replicate (if p then 2 else 1) (.hartStep h) ++ rest) := by
  cases p <;> rfl

theorem run_of_two_steps (hfirst : step s = .next t) (hsecond : step t = .next u) (p : Bool) :
    core.run (if p then 4 else 3) s = core.run (if p then 2 else 1) u := by
  cases p with
  | false => exact (run_of_step 2 hfirst).trans (run_of_step 1 hsecond)
  | true => exact (run_of_step 3 hfirst).trans (run_of_step 2 hsecond)

end Sys2Proof.Machine
end

section
/-! The whole sequences of 41_abstract_commands.md, settled. -/

namespace Sys2Proof.Machine

/-- Settles O58: the command, the store, and the way back. -/
theorem readRegisterThroughDataZero : Obligations.ReadRegisterThroughDataZero := by
  intro s wide b23 b19 p r rest hidle hst hx hprog hp
  rw [replicate_hartStep] at hp
  obtain ⟨t, hcommand, l⟩ := launched_read hidle hst hx hp
  obtain ⟨u, haccess, fu, hregisters, hstored⟩ := l.inFlight.store hx l.first
  have hlen := littleEndian_length (accessBytes wide) (readX t (selected s) r)
  have hle : 4 ≤ accessBytes wide := by cases wide <;> decide
  have hsecond := (read32_of_stored_outside hstored (a := 4) (by omega)).trans l.second
  have hbuffer : p = true → read32 u 0x20 = 0x00100073#32 := fun h =>
    ((read32_of_stored_outside hstored (by omega)).trans (l.read32_eq (by decide))).trans (hprog h)
  obtain ⟨v, hrun, land⟩ := fu.finish hsecond hbuffer
  have hread : ∀ i, 4 * i + 4 ≤ accessBytes wide →
      read32 v (0x80 + 4 * i) = (readX s (selected s) r).extractLsb' (32 * i) 32 := fun i hi => by
    rw [← l.registers, ← read32_of_stored_value hstored i hi]
    exact read32_congr u v _ fun _ _ => land.bytes _ (by omega)
  refine ⟨v, (run_of_two_steps hcommand haccess p).trans hrun, land.pending, land.busy, land.cmderr,
    (hread 0 hle).trans ?low, fun hw => hread 1 (hw ▸ by decide), land.entry, fun a ha hout => ?bytes, land.pc,
    fun k q => ((land.registers k q).trans (hregisters k q)).trans (l.registers k q), land.otherPcs, land.control, land.synced⟩
  case low => rfl
  case bytes =>
    have hend : (if wide then 0x88 else 0x84) = 0x80 + accessBytes wide := by cases wide <;> rfl
    rw [hend] at hout
    exact ((land.bytes a ha).trans ((hstored a).trans (if_neg (by omega)))).trans (l.bytes a ha)

/-- Settles O59: the command, the load, and the way back. -/
theorem writeRegisterThroughDataZero : Obligations.WriteRegisterThroughDataZero := by
  intro s wide b23 b19 p r rest hidle hst hx hprog hp
  rw [replicate_hartStep] at hp
  obtain ⟨t, hcommand, l⟩ := launched_write hidle hst hx hp
  obtain ⟨u, haccess, fu, hstorage, hloaded⟩ := l.inFlight.load hx l.first
  obtain ⟨v, hrun, land⟩ := fu.finish ((hstorage.read32_eq 4).trans l.second) fun h =>
    ((hstorage.read32_eq 0x20).trans (l.read32_eq (by decide))).trans (hprog h)
  have hvalue : clipXlen s.params (loadedValue t wide) =
      if wide then read32 s 0x84 ++ read32 s 0x80 else clipXlen s.params ((read32 s 0x80).signExtend 64) := by
    rw [loadedValue, l.read32_eq (by decide), l.read32_eq (by decide)]
    cases wide with
    | false => rfl
    | true => rw [clipXlen, hx rfl]; rfl
  refine ⟨v, (run_of_two_steps hcommand haccess p).trans hrun, land.pending, land.busy, land.cmderr, fun k q => ?_,
    land.entry, fun a ha => ((land.bytes a ha).trans (hstorage a)).trans (l.bytes a ha), land.pc, land.otherPcs,
    land.control, land.synced⟩
  rw [land.registers, hloaded, l.registers, hvalue]

end Sys2Proof.Machine
end

section
/-! SUPPORT. The device bus as the BUS port sees it (R220 to R235): the row that the first byte of an access selects, and what a
load or a store is in the terms of Safety.lean. -/

namespace Sys2Proof.Machine

/-! ## The row of a BUS access (R111) -/

/-- R111, R220: the region that the first byte of an access stands in. -/
def regionAt (off : Nat) : Option Region :=
  if off < 0x10 then some .entry
  else if off < 0x20 then some .exc
  else if off < 0x40 then some .progbuf
  else if off < 0x80 then some .code
  else if off < 0xA0 then some .exch
  else none

/-- R222 to R225, R230: the row of a load from a region. -/
def loadRow (off len : Nat) : Region → Instr
  | .entry => .loadEntry off len
  | .exc => .loadExc off len
  | .progbuf => .loadProgbuf off len
  | .code => .loadCode off len
  | .exch => .loadExch off len

/-- R227 to R229, R231, R232: the row of a store to a region. -/
def storeRow (off : Nat) (bytes : List Byte) : Region → Instr
  | .entry => .storeEntry off bytes
  | .exc => .storeExc off bytes
  | .progbuf => .storeProgbuf off bytes
  | .code => .storeCode off bytes
  | .exch => .storeExch off bytes

theorem regionAt_of_mem {off : Nat} {r : Region} (hlo : regionBase r ≤ off) (hhi : off < regionBase r + regionSize r) :
    regionAt off = some r := by
  unfold regionAt
  cases r <;> simp only [regionBase, regionSize] at hlo hhi <;> simp (disch := omega) only [if_pos, if_neg]

/-- R88, R220: only the region of its first byte can serve an access. -/
theorem regionAt_of_regionOf {off len : Nat} {r : Region} (h : regionOf off len = some r) : regionAt off = some r := by
  obtain ⟨hlen, hlo, hhi⟩ := (regionOf_eq_some off len r).1 h
  exact regionAt_of_mem hlo (by omega)

theorem decodeLoad_eq_map (off len : Nat) : decodeLoad off len = (regionAt off).map (loadRow off len) := by
  simp only [decodeLoad, regionAt, apply_ite (Option.map (loadRow off len)), Option.map_some, Option.map_none, loadRow]

theorem decodeStore_eq_map (off : Nat) (bytes : List Byte) :
    decodeStore off bytes = (regionAt off).map (storeRow off bytes) := by
  simp only [decodeStore, regionAt, apply_ite (Option.map (storeRow off bytes)), Option.map_some, Option.map_none, storeRow]

theorem exec_loadRow (off len : Nat) (r : Region) (s : State) :
    exec (loadRow off len r) s = .next (busLoadFrom r off len (clearPulses s)) := by
  cases r <;> rfl

theorem exec_storeRow (off : Nat) (bytes : List Byte) (r : Region) (s : State) :
    exec (storeRow off bytes r) s = .next (busStoreTo r off bytes (clearPulses s)) := by
  cases r <;> rfl

theorem mem_loadRows {off len base sz : Nat} {i : Instr} (h : (base, sz, i) ∈ loadRows off len) :
    ∃ r, base = regionBase r ∧ sz = regionSize r ∧ i = loadRow off len r := by
  simp only [loadRows, List.mem_cons, Prod.mk.injEq, List.not_mem_nil, or_false] at h
  rcases h with h | h | h | h | h
  · exact ⟨.entry, h⟩
  · exact ⟨.exc, h⟩
  · exact ⟨.progbuf, h⟩
  · exact ⟨.code, h⟩
  · exact ⟨.exch, h⟩

theorem mem_storeRows {off base : Nat} {bytes : List Byte} {i : Instr} (h : (base, i) ∈ storeRows off bytes) :
    ∃ r, base = regionBase r ∧ regionSize r = 0x20 ∧ regionWritable r = true ∧ i = storeRow off bytes r := by
  simp only [storeRows, List.mem_cons, Prod.mk.injEq, List.not_mem_nil, or_false] at h
  rcases h with ⟨hbase, hrow⟩ | ⟨hbase, hrow⟩
  · exact ⟨.progbuf, hbase, rfl, rfl, hrow⟩
  · exact ⟨.exch, hbase, rfl, rfl, hrow⟩

/-! ## A request of the BUS port -/

theorem busLoadFrom_eq_busLoad {off : Nat} {r : Region} (h : regionAt off = some r) (len : Nat) (s : State) :
    busLoadFrom r off len s = busLoad off len s := by
  unfold busLoad
  cases hserving : regionOf off len with
  | none => exact if_neg (by simp [hserving])
  | some q => rw [Option.some.inj ((regionAt_of_regionOf hserving).symm.trans h)]

theorem busStoreTo_eq_busStore {off : Nat} {r : Region} (h : regionAt off = some r) (bytes : List Byte) (s : State) :
    busStoreTo r off bytes s = busStore off bytes s := by
  unfold busStore
  cases hserving : regionOf off bytes.length with
  | none => exact if_neg (by simp [hserving])
  | some q => rw [Option.some.inj ((regionAt_of_regionOf hserving).symm.trans h)]

theorem regionOf_of_regionAt_none {off : Nat} (h : regionAt off = none) (len : Nat) : regionOf off len = none :=
  Option.eq_none_iff_forall_ne_some.2 fun _ hserving => Option.some_ne_none _ ((regionAt_of_regionOf hserving).symm.trans h)

/-- R111, R221, R234: whichever row a load decodes to, and if it decodes to none, it is the load over all regions. -/
theorem runPacket_load (off len : Nat) (s : State) :
    runPacket (.load off len) s = .next (busLoad off len (clearPulses s)) := by
  have hdecode : decode (.load off len) = (regionAt off).map (loadRow off len) := decodeLoad_eq_map off len
  cases hat : regionAt off with
  | some r =>
    rw [hat] at hdecode
    rw [runPacket_of_decode hdecode, exec_loadRow, busLoadFrom_eq_busLoad hat]
  | none =>
    rw [hat] at hdecode
    rw [runPacket_of_not_decoded hdecode, busLoad_eq, regionOf_of_regionAt_none hat]
    rfl

/-- R111, R226, R234: whichever row a store decodes to, and if it decodes to none, it is the store over all regions. -/
theorem runPacket_store (off : Nat) (bytes : List Byte) (s : State) :
    runPacket (.store off bytes) s = .next (busStore off bytes (clearPulses s)) := by
  have hdecode : decode (.store off bytes) = (regionAt off).map (storeRow off bytes) := decodeStore_eq_map off bytes
  cases hat : regionAt off with
  | some r =>
    rw [hat] at hdecode
    rw [runPacket_of_decode hdecode, exec_storeRow, busStoreTo_eq_busStore hat]
  | none =>
    rw [hat] at hdecode
    rw [runPacket_of_not_decoded hdecode, busStore_eq, storeServed, regionOf_of_regionAt_none hat]
    rfl

/-! ## The frame of a BUS access (R90, R91, R221, R226) -/

/-- Everything but the bytes and the answer is the same. -/
structure OnlyBytesChange (s t : State) : Prop where
  control : SameControl s t
  engine : SameEngine s t
  tracker : SameTracker s t
  harts : SameHarts s t
  outside : SameOutside s t

/-- A BUS access answers, empties the pulse list and has no effect but on the memory. -/
theorem onlyBytesChange_respond (r : Response) (m : Memory) (s : State) :
    OnlyBytesChange s (respond r { clearPulses s with mem := m }) where
  control := { authenticated := rfl, authbusy := rfl, authtype := rfl, version := rfl, autoexec := rfl, datacount := rfl,
               dmactive := rfl, hartsel := rfl }
  engine := { busy := rfl, lastCommand := rfl, lastCommandValid := rfl, nextAction := rfl, actionExecuted := rfl, cmderr := rfl }
  tracker := { halted := fun _ => rfl, interrupt := rfl, notification := rfl }
  harts := fun _ => rfl
  outside := { params := rfl, unavailable := rfl, pending := rfl, stepping := rfl, freeCount := rfl }

/-- R90, R234: a load, and an access that fails, leave the state as it is. -/
theorem unchanged_respond (r : Response) (s : State) : Unchanged s (respond r (clearPulses s)) :=
  { onlyBytesChange_respond r s.mem s with storage := readByte_respond r (clearPulses s) }

/-- R226: a store that is served. -/
structure BytesWritten (s t : State) (off : Nat) (bytes : List Byte) : Prop extends OnlyBytesChange s t where
  answers : Answers t .ok []
  stored : Stored s t off bytes

theorem bytesWritten_writeBytes (off : Nat) (bytes : List Byte) (s : State) :
    BytesWritten s (respond .ok (writeBytes (clearPulses s) off bytes)) off bytes where
  toOnlyBytesChange := onlyBytesChange_respond .ok _ s
  answers := ⟨rfl, rfl⟩
  stored := (stored_writeBytes (clearPulses s) off bytes).congr (fun _ => rfl) (readByte_respond .ok _)

/-! ## A load or a store of one region -/

theorem busLoadFrom_of_served {r : Region} {off len : Nat} (h : regionOf off len = some r) (s : State) :
    busLoadFrom r off len s = respond (.bytes (readBytes s off len)) s :=
  if_pos h

theorem busStoreTo_of_served {r : Region} {off : Nat} {bytes : List Byte} (h : regionOf off bytes.length = some r)
    (hw : regionWritable r = true) (s : State) : busStoreTo r off bytes s = respond .ok (writeBytes s off bytes) :=
  if_pos ⟨h, hw⟩

/-- R227 to R229: a region that is not writable refuses every store. -/
theorem busStoreTo_of_readOnly {r : Region} (hw : regionWritable r = false) (off : Nat) (bytes : List Byte) (s : State) :
    busStoreTo r off bytes s = respond .fail s :=
  if_neg fun h => Bool.noConfusion (hw.symm.trans h.2)

/-- R231, R232: a store to a writable region that holds its range is served. -/
theorem exec_storeRow_of_writable {r : Region} {off : Nat} {bytes : List Byte} (hw : regionWritable r = true)
    (h : regionOf off bytes.length = some r) (s : State) :
    ∃ t, exec (storeRow off bytes r) s = .next t ∧ BytesWritten s t off bytes := by
  rw [exec_storeRow, busStoreTo_of_served h hw]
  exact ⟨_, rfl, bytesWritten_writeBytes off bytes s⟩

/-- R227 to R229: a store to a ROM region is refused. -/
theorem exec_storeRow_of_readOnly {r : Region} (hw : regionWritable r = false) (off : Nat) (bytes : List Byte) (s : State) :
    ∃ t, exec (storeRow off bytes r) s = .next t ∧ Unchanged s t ∧ Answers t .fail [] := by
  rw [exec_storeRow, busStoreTo_of_readOnly hw]
  exact ⟨_, rfl, unchanged_respond .fail s, rfl, rfl⟩

end Sys2Proof.Machine
end

section
/-! The statements of 42_device_bus.md, settled. -/

namespace Sys2Proof.Machine

/-- Settles O9: a load packet is the load over all regions, which answers by whether some region serves it. -/
theorem loadServedExactlyInsideARegion : Obligations.LoadServedExactlyInsideARegion := by
  intro s rest off len hp
  refine ⟨_, (step_of_packet hp).trans (runPacket_load off len _), ?_⟩
  rw [busLoad_eq]
  refine ⟨unchanged_respond _ _, fun hin => ?_, fun hout => ?_⟩
  · rw [if_pos ((inside_iff off len).1 hin)]
    exact ⟨rfl, rfl⟩
  · rw [if_neg (mt (inside_iff off len).2 hout)]
    exact ⟨rfl, rfl⟩

/-- Settles O10: a store packet is the store over all regions, which writes by whether a writable region serves it. -/
theorem storeServedExactlyInsideAWritableRegion : Obligations.StoreServedExactlyInsideAWritableRegion := by
  intro s rest off bytes hp
  refine ⟨_, (step_of_packet hp).trans (runPacket_store off bytes _), ?_⟩
  rw [busStore_eq]
  by_cases hin : InsideWritable off bytes.length
  · rw [if_pos ((insideWritable_iff off bytes.length).1 hin)]
    have h := bytesWritten_writeBytes off bytes { s with pending := rest }
    exact ⟨{ h.control with }, { h.engine with }, { h.tracker with }, h.harts, h.outside,
      fun _ => ⟨h.answers, h.stored⟩, fun hout => absurd hin hout⟩
  · rw [if_neg (mt (insideWritable_iff off bytes.length).2 hin)]
    have h := unchanged_respond .fail { s with pending := rest }
    exact ⟨{ h.control with }, { h.engine with }, { h.tracker with }, h.harts, h.outside,
      fun hin' => absurd hin' hin, fun _ => ⟨⟨rfl, rfl⟩, h.storage⟩⟩

/-- Settles O36: both rows store to a writable region of 32 bytes. -/
theorem storesWriteTheirBytes : Obligations.StoresWriteTheirBytes := by
  intro s off base bytes i hi hlen hlo hhi
  obtain ⟨r, rfl, hsize, hw, rfl⟩ := mem_storeRows hi
  have hserved : regionOf off bytes.length = some r :=
    (regionOf_eq_some _ _ _).2 ⟨hlen.ne', hlo, hsize ▸ hhi⟩
  obtain ⟨t, hexec, h⟩ := exec_storeRow_of_writable hw hserved s
  exact ⟨t, hexec, h.answers, h.stored, h.control, h.engine, h.tracker, h.harts, h.outside⟩

/-- Settles O37: both rows are served by the exchange buffer, and the bytes written are the bytes read. -/
theorem exchangeBufferRoundTrip : Obligations.ExchangeBufferRoundTrip := by
  intro s off bytes hlen hlo hhi
  have hserved : regionOf off bytes.length = some .exch :=
    (regionOf_eq_some _ _ _).2 ⟨hlen.ne', hlo, hhi⟩
  have hstore : exec (.storeExch off bytes) s = .next (respond .ok (writeBytes (clearPulses s) off bytes)) :=
    congrArg Host.Outcome.next (busStoreTo_of_served hserved rfl (clearPulses s))
  have hbytes := readBytes_writeBytes (clearPulses s) off bytes
  exact ⟨_, _, hstore, rfl, rfl, (busLoadFrom_response hserved _).trans (congrArg Response.bytes hbytes)⟩

/-- Settles O34: the range lies in the region of the row, so the row is served. -/
theorem loadsReturnTheRegion : Obligations.LoadsReturnTheRegion := by
  intro s off len base sz i hi hlen hlo hhi
  obtain ⟨r, rfl, rfl, rfl⟩ := mem_loadRows hi
  have hserved : regionOf off len = some r := (regionOf_eq_some _ _ _).2 ⟨hlen.ne', hlo, hhi⟩
  rw [exec_loadRow, busLoadFrom_of_served hserved]
  exact ⟨_, rfl, unchanged_respond _ s, rfl, rfl⟩

/-- Settles O35: the three regions are not writable. -/
theorem romStoresAreRefused : Obligations.RomStoresAreRefused := by
  intro s off bytes i hi
  simp only [List.mem_cons, List.not_mem_nil, or_false] at hi
  rcases hi with rfl | rfl | rfl
  · exact exec_storeRow_of_readOnly (r := .entry) rfl off bytes s
  · exact exec_storeRow_of_readOnly (r := .exc) rfl off bytes s
  · exact exec_storeRow_of_readOnly (r := .code) rfl off bytes s

end Sys2Proof.Machine
end

section
/-! SUPPORT. The harts' events (R240 to R254): what an accessor changes or answers, what ends a flight, and the fault of a hart,
in the terms of Safety.lean. -/

namespace Sys2Proof.Machine

variable {s t : State} {h : Nat}

/-! ## The accessors (R240 to R247) -/

/-- R240: what an operation on the per-hart tracker leaves unchanged. -/
theorem frame_of_trackerOnly (htracker : TrackerOnly s t) (r : Response) :
    SameControl s (respond r t) ∧ SameEngine s (respond r t) ∧ SameStorage s (respond r t) ∧ SameHarts s (respond r t) ∧
      SameOutside s (respond r t) := by
  obtain ⟨_, _, _, _, rfl⟩ := htracker
  exact ⟨⟨⟨rfl, rfl, rfl, rfl, rfl, rfl⟩, rfl, rfl⟩, ⟨⟨rfl, rfl, rfl, rfl, rfl⟩, rfl⟩, fun _ => rfl, fun _ => rfl,
    ⟨rfl, rfl, rfl, rfl, rfl⟩⟩

/-- R242, R243, R245, R246: an accessor of an id below `MAX_HARTS`. -/
theorem accessor_of_lt (hlt : h < 1024) (effect : State → State) (s : State) :
    accessor h effect s = respond .ok (effect (clearPulses s)) :=
  if_pos hlt

/-- R241: an accessor of any other id is refused. -/
theorem accessor_refused (hge : 1024 ≤ h) (effect : State → State) (s : State) :
    Answers (accessor h effect s) .fail [] ∧ Unchanged s (accessor h effect s) := by
  have hrefused : accessor h effect s = respond .fail (clearPulses s) := if_neg (Nat.not_lt.2 hge)
  rw [hrefused]
  exact ⟨⟨rfl, rfl⟩, unchanged_respond .fail s⟩

/-- R241, R244, R247: a getter answers membership of an id below `MAX_HARTS`. -/
theorem getter_spec (h : Nat) (set : List Nat) (s : State) :
    ∃ b, Unchanged s (getter h set s) ∧ Answers (getter h set s) (.member b) [] ∧ (b = true ↔ h < 1024 ∧ h ∈ set) :=
  ⟨_, unchanged_respond _ s, ⟨rfl, rfl⟩, by
    rw [Bool.and_eq_true, decide_eq_true_eq, List.contains_iff_mem]⟩

/-! ## The end of a flight (R251, R252) -/

/-- R251, R252: the action in flight has completed and `cmderr` is `e`; everything outside the engine and the entry region is
the same. -/
structure FlightEnds (s t : State) (e : CmdErr) : Prop where
  completed : Completed s t
  cmderr : t.cmderr = e
  control : SameControl s t
  tracker : SameTracker s t
  harts : SameHarts s t
  outside : SameOutside s t

theorem flightEnds_completeExecuted (hb : s.busy = true) : FlightEnds s (completeExecuted s) s.cmderr := by
  have hcompleted := completed_completeExecuted s hb
  have hdone : completeExecuted s = { restoreEntry s with actionExecuted := true, busy := false } := if_pos hb
  rw [hdone] at hcompleted ⊢
  exact {
    completed := hcompleted
    cmderr := rfl
    control := { authenticated := rfl, authbusy := rfl, authtype := rfl, version := rfl, autoexec := rfl, datacount := rfl,
                 dmactive := rfl, hartsel := rfl }
    tracker := { halted := fun _ => rfl, interrupt := rfl, notification := rfl }
    harts := fun _ => rfl
    outside := { params := rfl, unavailable := rfl, pending := rfl, stepping := rfl, freeCount := rfl } }

/-- R252: the fault is the completion with the error written over it. -/
theorem flightEnds_completeFaulted (hb : s.busy = true) : FlightEnds s (completeFaulted s) .exception := by
  have hend := flightEnds_completeExecuted hb
  rw [completeFaulted, if_pos hb]
  exact {
    completed := { hend.completed with }
    cmderr := rfl
    control := { hend.control with }
    tracker := { hend.tracker with }
    harts := hend.harts
    outside := { hend.outside with } }

/-- R251, R252: a completion answers nothing and emits nothing. -/
theorem answers_completeExecuted (s : State) : Answers (completeExecuted s) s.response s.pulses := by
  rcases completeExecuted_cases s with ⟨-, e⟩ | ⟨-, e⟩ <;> rw [e] <;> exact ⟨rfl, rfl⟩

theorem answers_completeFaulted (s : State) : Answers (completeFaulted s) s.response s.pulses := by
  rcases completeFaulted_cases s with ⟨-, e⟩ | ⟨-, e⟩ <;> rw [e] <;> exact ⟨rfl, rfl⟩

/-- What ends a flight may be told from the state before the transaction answered. -/
theorem FlightEnds.of_answered {r : Response} {e : CmdErr} (hend : FlightEnds (respond r (clearPulses s)) t e) :
    FlightEnds s t e where
  completed := { hend.completed with }
  cmderr := hend.cmderr
  control := { hend.control with }
  tracker := { hend.tracker with }
  harts := hend.harts
  outside := { hend.outside with }

/-- The answer of the event is no part of what ends a flight. -/
theorem FlightEnds.respond {e : CmdErr} (hend : FlightEnds s t e) (r : Response) : FlightEnds s (respond r t) e where
  completed := { hend.completed with }
  cmderr := hend.cmderr
  control := { hend.control with }
  tracker := { hend.tracker with }
  harts := hend.harts
  outside := { hend.outside with }

/-- R251, R252: an event that ends the flight. -/
theorem exec_of_flightEnds {i : Instr} {e : CmdErr} (hexec : exec i s = .next (respond .none t))
    (hend : FlightEnds (clearPulses s) t e) (hpulses : t.pulses = []) :
    ∃ t, exec i s = .next t ∧ Answers t .none [] ∧ Completed s t ∧ t.cmderr = e ∧ SameControl s t ∧ SameTracker s t ∧
      SameHarts s t ∧ SameOutside s t := by
  obtain ⟨hcompleted, hcmderr, hcontrol, htracker, hharts, houtside⟩ :=
    (FlightEnds.of_answered (r := s.response) hend).respond .none
  exact ⟨_, hexec, ⟨rfl, hpulses⟩, hcompleted, hcmderr, hcontrol, htracker, hharts, houtside⟩

/-- R254: an event that finds no action in flight. -/
theorem exec_of_stray {i : Instr} (hexec : exec i s = .next (respond .none t)) (hstray : t = clearPulses s) :
    ∃ t, exec i s = .next t ∧ Answers t .none [] ∧ Unchanged s t :=
  ⟨_, hstray ▸ hexec, ⟨rfl, rfl⟩, unchanged_respond .none s⟩

/-! ## The fault of a hart (R252, R258, R281, R301, R308) -/

/-- R12: an address of the module is the same in a register of either `XLEN`. -/
theorem clipXlen_module (q : Params) {off : Nat} (hoff : off < 0xA0) :
    clipXlen q (BitVec.ofNat 64 (dmBase q + off)) = BitVec.ofNat 64 (dmBase q + off) := by
  have hlt := q.dmBlock.isLt
  exact clipXlen_ofNat q _ (by rw [dmBase]; omega)

theorem readPc_setPc_module (h : Nat) {q : Params} {off : Nat} (hoff : off < 0xA0) (ht : t.params = q) :
    readPc (setPc h (BitVec.ofNat 64 (dmBase q + off)) t) h = BitVec.ofNat 64 (dmBase q + off) := by
  rw [readPc_setPc, if_pos rfl, ht, clipXlen_module q hoff]

theorem SameHarts.sameRegisters (hh : SameHarts s t) : SameRegisters s t := fun k q => by
  rw [readX, readX, hh]

/-- R252, R301: the hart whose action has faulted comes to `EXC_ABS`. -/
theorem FlightEnds.faultedAction (hend : FlightEnds s t .exception) (h : Nat) :
    FaultedAction s (setPc h (BitVec.ofNat 64 (excAbs s.params)) t) h where
  completed := { hend.completed with }
  cmderr := hend.cmderr
  pc := readPc_setPc_module h (by decide) hend.outside.params
  otherPcs := fun k hk => by
    rw [readPc_setPc, if_neg hk, readPc, readPc, hend.harts]
  registers := fun k q => (readX_setPc h _ t k q).trans (hend.harts.sameRegisters k q)
  control := { hend.control with }
  tracker := { hend.tracker with }
  outside := { hend.outside with }

/-- R308: a hart that carries no action moves its own pc; `n` counts the free value that its address may be. -/
theorem ownTrap_setPc (h : Nat) (a : XWord) (r : Response) (n : Nat) (s : State) :
    OwnTrap s (setPc h a { respond r (clearPulses s) with freeCount := n }) h where
  control := { authenticated := rfl, authbusy := rfl, authtype := rfl, version := rfl, autoexec := rfl, datacount := rfl,
               dmactive := rfl, hartsel := rfl }
  engine := { busy := rfl, lastCommand := rfl, lastCommandValid := rfl, nextAction := rfl, actionExecuted := rfl, cmderr := rfl }
  tracker := { halted := fun _ => rfl, interrupt := rfl, notification := rfl }
  storage := fun _ => rfl
  registers := readX_setPc h a _
  otherPcs := fun k hk => (readPc_setPc h a _ k).trans (if_neg hk)
  params := rfl
  unavailable := rfl
  pending := rfl
  stepping := rfl

/-- R281 (c), R308: instruction `i` answers `r` and is an exception of the hart that executes it: the fault of the action when
the hart carries it, else a trap that the block does not see, to `EXC_ABS` from staged or program-buffer code. -/
def FaultsHart (i : Instr) (s : State) (r : Response) : Prop :=
  (Carries s s.stepping → ∃ t, exec i s = .next t ∧ Answers t r [] ∧ FaultedAction s t s.stepping) ∧
  (¬Carries s s.stepping → ∃ t, exec i s = .next t ∧ Answers t r [] ∧ OwnTrap s t s.stepping ∧
    (InStagedCode s s.stepping → readPc t s.stepping = BitVec.ofNat 64 (dmBase s.params + 0x10)))

/-- An instruction that answers and takes the exception faults its hart. -/
theorem faultsHart_of_takeException {i : Instr} {r : Response}
    (hexec : exec i s = .next (takeException s.stepping (respond r (clearPulses s)))) : FaultsHart i s r := by
  have hcarries : Carries s s.stepping ↔ carriesAction (respond r (clearPulses s)) s.stepping = true :=
    carries_iff s s.stepping
  have hstaged : InStagedCode s s.stepping ↔ inStagedCode (respond r (clearPulses s)) s.stepping = true :=
    inStagedCode_iff s s.stepping
  rw [FaultsHart, hcarries, hstaged, hexec]
  rcases takeException_cases s.stepping (respond r (clearPulses s)) with ⟨hc, e⟩ | ⟨hc, hin, e⟩ | ⟨hc, hin, e⟩ <;> rw [e, hc]
  · have hend : FlightEnds s (completeFaulted (respond r (clearPulses s))) .exception :=
      (flightEnds_completeFaulted (busy_of_carriesAction _ _ hc)).of_answered
    have hanswers : Answers (completeFaulted (respond r (clearPulses s))) r [] := answers_completeFaulted _
    exact ⟨fun _ => ⟨_, rfl, hanswers, hend.faultedAction s.stepping⟩, fun hn => absurd rfl hn⟩
  · exact ⟨fun hn => absurd hn Bool.false_ne_true,
      fun _ => ⟨_, rfl, ⟨rfl, rfl⟩, ownTrap_setPc _ _ r s.freeCount s, fun _ => readPc_setPc_module _ (by decide) rfl⟩⟩
  · exact ⟨fun hn => absurd hn Bool.false_ne_true,
      fun _ => ⟨_, rfl, ⟨rfl, rfl⟩, ownTrap_setPc _ _ r _ s, fun hn => absurd (hin.symm.trans hn) Bool.false_ne_true⟩⟩

/-! ## An access of a hart that the BUS port refuses (R258) -/

theorem inModule_add (q : Params) {off : Nat} (hoff : off < 0xA0) : inModule q (dmBase q + off) = true := by
  rw [inModule, Config.busSize, Bool.and_eq_true, decide_eq_true_eq, decide_eq_true_eq]
  omega

theorem hartStore_refused (h : Nat) {off n : Nat} (v : XWord) (hoff : off < 0xA0) (hout : ¬InsideWritable off n)
    (s : State) : hartStore h (dmBase s.params + off) (littleEndian n v) s = takeException h (respond .fail s) := by
  rw [insideWritable_iff, ← littleEndian_length n v] at hout
  rw [hartStore, if_pos (inModule_add s.params hoff), Nat.add_sub_cancel_left, if_neg hout, busStore_eq, if_neg hout]

theorem hartLoad_refused (h : Nat) {off n : Nat} (extend : XWord → XWord) (rd : BitVec 5) (hoff : off < 0xA0)
    (hout : ¬Inside off n) (s : State) :
    hartLoad h (dmBase s.params + off) n extend rd s = takeException h (respond .fail s) := by
  rw [inside_iff] at hout
  rw [hartLoad, if_pos (inModule_add s.params hoff), Nat.add_sub_cancel_left, if_neg hout, busLoad_eq, if_neg hout]

end Sys2Proof.Machine
end

section
/-! SUPPORT. The life of a halt (R250), request by request: what each of its steps does while hart `h` stays selected. -/

namespace Sys2Proof.Machine

variable {s t u : State} {h a : Nat} {v x : Word32} {st st' : HartStatus} {q : Request} {rest : List Request}

/-! ## The status after `Sync()` (R36, R249) -/

theorem debugInterrupt_iff (s : State) (h : Nat) : debugInterrupt s h = true ↔ h ∈ s.interrupt := List.contains_iff_mem

/-- R249: `Sync()` raises no interrupt. -/
theorem Synced.debugInterrupt_eq_false (hsync : Synced s t) (hd : debugInterrupt s h = false) :
    debugInterrupt t h = false := by
  rw [Bool.eq_false_iff, ne_eq, debugInterrupt_iff] at hd ⊢
  exact fun hmem => hd ((hsync.interrupt h).1 hmem).1

theorem SyncedOnly.hartStatus_eq (hsync : SyncedOnly s t) (h : Nat) : hartStatus t h = statusAfterSync s h := by
  have hhalted : isHalted t h = isHalted (sync (clearPulses s)) h :=
    (hsync.synced.halted h).trans ((synced_sync s).halted h).symm
  exact (hartStatus_congr (sync (clearPulses s)) t h hsync.outside.params hsync.outside.unavailable hhalted).trans
    (hartStatus_sync s h)

/-- R36: an existing, available hart that is recorded as halted or has notified. -/
theorem statusAfterSync_eq_halted (hexists : hartExists s h = true) (havailable : hartUnavailable s h = false)
    (hhalted : isHalted s h = true ∨ h ∈ s.haltNotification) : statusAfterSync s h = .halted := by
  rw [statusAfterSync, if_neg (by simp [hexists]), if_neg (Bool.eq_false_iff.1 havailable), if_pos hhalted]

theorem statusAfterSync_of_halted (hst : hartStatus s h = .halted) : statusAfterSync s h = .halted := by
  obtain ⟨hexists, havailable, hhalted⟩ := (hartStatus_eq_halted s h).1 hst
  exact statusAfterSync_eq_halted hexists havailable (.inl hhalted)

theorem statusAfterSync_of_notified (hst : hartStatus s h = .running) (hmem : h ∈ s.haltNotification) :
    statusAfterSync s h = .halted := by
  obtain ⟨hexists, havailable, -⟩ := (hartStatus_eq_running s h).1 hst
  exact statusAfterSync_eq_halted hexists havailable (.inr hmem)

/-! ## DMI reads (R81, R140) -/

/-- R81: the row of a mapped address reads a register. -/
theorem decode_dmiRead_of_mapped (ha : a ∈ mappedDmi) (x : Word32) :
    ∃ i value, decode (.dmi false a x) = some i ∧ ∀ s, exec i s = .next (dmiRead value s) := by
  simp only [mappedDmi] at ha
  fin_cases ha <;> exact ⟨_, _, rfl, fun _ => rfl⟩

/-- R140, R153: a DMI read of any address does nothing but `Sync()`. -/
theorem step_dmiRead (hp : s.pending = .packet (.dmi false a x) :: rest) :
    ∃ t, step s = .next t ∧ SyncedOnly { s with pending := rest } t := by
  by_cases ha : a ∈ mappedDmi
  · obtain ⟨i, value, hd, hexec⟩ := decode_dmiRead_of_mapped ha x
    obtain ⟨hframe, -⟩ := dmiRead_spec value { s with pending := rest }
    exact ⟨_, ((step_of_packet hp).trans (runPacket_of_decode hd _)).trans (hexec _), hframe⟩
  · obtain ⟨t, hstep, -, hframe⟩ := unmappedDmiAccessFails s rest false a x hp ha
    exact ⟨t, hstep, hframe⟩

/-- R113: bits 27:26 of `dmcontrol` are the status of the selected hart. -/
theorem dmcontrolWord_status (s : State) :
    (dmcontrolWord s).extractLsb' 26 2 = hartStatusCode (hartStatus s (selected s)) := by
  rw [dmcontrolWord, selected]
  generalize hartStatusCode _ = code
  apply BitVec.eq_of_getLsbD_eq
  intro i hi
  simp only [BitVec.getLsbD_extractLsb', BitVec.getLsbD_append]
  interval_cases i <;> simp

/-! ## Writes of `dmcontrol` without a reset request (R142 to R144) -/

/-- What such a write leaves before its halt or resume request: `Sync()` is done and the hart selected. -/
def selectedAfterSync (v : Word32) (rest : List Request) (s : State) : State :=
  selectHart v (sync (clearPulses { s with pending := rest }))

theorem step_dmcontrolWrite (hp : s.pending = .packet (.dmi true 0x10 v) :: rest) (hactive : v.getLsbD 29 = true)
    (hreset : v.getLsbD 30 = false) :
    step s = .next (respond .ok (haltOrResume v (hartselField v).toNat (selectedAfterSync v rest s))) := by
  have hd : decode (.dmi true 0x10 v) = some (.dmiWriteDmcontrol v) := rfl
  have hstore : storeDmcontrol v (sync (clearPulses { s with pending := rest })) =
      haltOrResume v (hartselField v).toNat (selectedAfterSync v rest s) := by
    rw [storeDmcontrol_of_active hactive, resetFirst, resetBit, hreset]
    rfl
  rw [step_of_packet hp, runPacket_of_decode hd, ← hstore]
  rfl

theorem hartStatus_selectedAfterSync (v : Word32) (rest : List Request) (s : State) (h : Nat) :
    hartStatus (selectedAfterSync v rest s) h = statusAfterSync s h :=
  hartStatus_sync { s with pending := rest } h

theorem haltOrResume_of_running (hhalt : v.getLsbD 31 = true) (hst : hartStatus s h = .running) :
    haltOrResume v h s = addInterrupt h s := by
  rcases haltOrResume_cases v h s with ⟨-, e⟩ | ⟨⟨-, hhalted⟩, -⟩ | ⟨hnot, -, -⟩
  · exact e
  · exact absurd (hst.symm.trans hhalted) (by decide)
  · exact absurd ⟨hhalt, hst⟩ hnot

theorem haltOrResume_of_halted (hresume : v.getLsbD 28 = true) (hst : hartStatus s h = .halted) :
    haltOrResume v h s = emit (.resume h) (setHalted h false s) := by
  rcases haltOrResume_cases v h s with ⟨⟨-, hrunning⟩, -⟩ | ⟨-, e⟩ | ⟨-, hnot, -⟩
  · exact absurd (hst.symm.trans hrunning) (by decide)
  · exact e
  · exact absurd ⟨hresume, hst⟩ hnot

/-! ## The loop's poll (R250, R258) -/

theorem step_of_hartPoll (hp : s.pending = .hartPoll h :: rest) :
    step s = .next (honourInterrupt h { s with pending := rest }) := by
  simp only [step, hp]

/-- R258: a poll that finds the interrupt raised: the hart stands at `ENTRY_ABS` and has notified, its status is as before. -/
structure Honoured (s t : State) (h : Nat) : Prop where
  pc : readPc t h = BitVec.ofNat 64 (dmBase s.params)
  notified : h ∈ t.haltNotification
  hartsel : t.hartsel = s.hartsel
  status : hartStatus t h = hartStatus s h

theorem readPc_addNotification (k : Nat) (s : State) (h : Nat) : readPc (addNotification k s) h = readPc s h := rfl

theorem honoured_honourInterrupt (hd : debugInterrupt s h = true) : Honoured s (honourInterrupt h s) h := by
  have hraised : honourInterrupt h s =
      addNotification h (setPc h (BitVec.ofNat 64 (entryAbs s.params)) (respond .ok (clearPulses s))) := if_pos hd
  rw [hraised]
  exact {
    pc := by
      rw [readPc_addNotification, readPc_setPc, if_pos rfl]
      exact clipXlen_module s.params (off := 0) (by decide)
    notified := (mem_insertId s.haltNotification h h).2 (.inl rfl)
    hartsel := by simp
    status := hartStatus_congr s _ h (by simp) (by simp) (by simp [isHalted]) }

/-! ## The steps of R250 -/

/-- From `s` the life of a halt has come to `t`: hart `h` is selected and has status `st`, and `rest` are the requests still
to be taken. -/
structure HaltStage (s t : State) (h : Nat) (st : HartStatus) (rest : List Request) : Prop where
  hartsel : selected t = h
  status : hartStatus t h = st
  params : t.params = s.params
  pending : t.pending = rest

theorem HaltStage.id_lt (f : HaltStage s t h st rest) : h < 1024 := f.hartsel ▸ t.hartsel.isLt

/-- A step takes the oldest request; no step changes the parameters. -/
theorem HaltStage.taken (f : HaltStage s t h st (q :: rest)) (hstep : step t = .next u) (hsel : u.hartsel = t.hartsel)
    (hst : hartStatus u h = st') : HaltStage s u h st' rest where
  hartsel := (congrArg BitVec.toNat hsel).trans f.hartsel
  status := hst
  params := (step_keeps hstep).params.trans f.params
  pending := (step_keeps hstep).pending.trans (congrArg List.tail f.pending)

/-- R250 step 1, R143: the halt request raises the interrupt of the RUNNING hart. -/
theorem haltRequest_step (hp : s.pending = .packet (.dmi true 0x10 v) :: rest) (hactive : v.getLsbD 29 = true)
    (hhalt : v.getLsbD 31 = true) (hreset : v.getLsbD 30 = false)
    (hst : statusAfterSync s (v.extractLsb' 16 10).toNat = .running) :
    ∃ t, step s = .next t ∧ Answers t .ok [] ∧ debugInterrupt t (v.extractLsb' 16 10).toNat = true ∧
      HaltStage s t (v.extractLsb' 16 10).toNat .running rest := by
  have hrunning := (hartStatus_selectedAfterSync v rest s _).trans hst
  have hstep := step_dmcontrolWrite hp hactive hreset
  rw [hartselField, haltOrResume_of_running hhalt hrunning] at hstep
  exact ⟨_, hstep, ⟨rfl, rfl⟩, (debugInterrupt_iff _ _).2 ((mem_insertId _ _ _).2 (.inl rfl)), rfl, hrunning, rfl, rfl⟩

/-- R250 step 2, R244: `get_interrupt` tells the pending interrupt. -/
theorem HaltStage.getInterrupt (f : HaltStage s t h st (.packet (.event 2#4 h) :: rest)) (hd : debugInterrupt t h = true) :
    ∃ u, step t = .next u ∧ Answers u (.member true) [] ∧ debugInterrupt u h = true ∧ HaltStage s u h st rest := by
  obtain ⟨b, -, hanswers, hb⟩ := getter_spec h t.interrupt { t with pending := rest }
  have hpending : b = true := hb.2 ⟨f.id_lt, (debugInterrupt_iff t h).1 hd⟩
  have hstep : step t = .next (getter h t.interrupt { t with pending := rest }) :=
    (step_of_packet f.pending).trans (runPacket_of_decode (i := .getInterrupt h) rfl _)
  exact ⟨_, hstep, hpending ▸ hanswers, hd, f.taken hstep rfl f.status⟩

/-- R250 steps 2 and 3, R258: the loop's poll takes the hart to `ENTRY_ABS`, and the hart notifies. -/
theorem HaltStage.poll (f : HaltStage s t h st (.hartPoll h :: rest)) (hd : debugInterrupt t h = true) :
    ∃ u, step t = .next u ∧ readPc u h = BitVec.ofNat 64 (dmBase s.params) ∧ h ∈ u.haltNotification ∧
      HaltStage s u h st rest := by
  have hstep := step_of_hartPoll f.pending
  have honoured := honoured_honourInterrupt (s := { t with pending := rest }) hd
  exact ⟨_, hstep, honoured.pc.trans (congrArg (fun q => BitVec.ofNat 64 (dmBase q)) f.params), honoured.notified,
    f.taken hstep honoured.hartsel (honoured.status.trans f.status)⟩

/-- R250 step 4, R249: any DMI read folds the notification of the RUNNING hart. -/
theorem HaltStage.fold (f : HaltStage s t h .running (.packet (.dmi false a x) :: rest)) (hmem : h ∈ t.haltNotification) :
    ∃ u, step t = .next u ∧ debugInterrupt u h = false ∧ u.haltNotification = [] ∧ HaltStage s u h .halted rest := by
  obtain ⟨u, hstep, hsync⟩ := step_dmiRead f.pending
  obtain ⟨hexists, -, -⟩ := (hartStatus_eq_running t h).1 f.status
  have hdropped : debugInterrupt u h = false := by
    rw [Bool.eq_false_iff, ne_eq, debugInterrupt_iff, hsync.synced.interrupt]
    exact fun hkept => hkept.2 ⟨hmem, hexists⟩
  have hstatus : hartStatus u h = .halted := (hsync.hartStatus_eq h).trans (statusAfterSync_of_notified f.status hmem)
  exact ⟨u, hstep, hdropped, hsync.synced.notification, f.taken hstep hsync.control.hartsel hstatus⟩

/-- R250 step 5, R141: `dmcontrol` reads HALTED. -/
theorem HaltStage.readStatus (f : HaltStage s t h .halted (.packet (.dmi false 0x10 x) :: rest))
    (hd : debugInterrupt t h = false) :
    ∃ u value, step t = .next u ∧ Answers u (.word value) [] ∧ value.extractLsb' 26 2 = 0#2 ∧
      debugInterrupt u h = false ∧ HaltStage s u h .halted rest := by
  have hstep : step t = .next (dmiRead dmcontrolWord { t with pending := rest }) :=
    (step_of_packet f.pending).trans (runPacket_of_decode (i := .dmiReadDmcontrol) rfl _)
  obtain ⟨hsync, hanswers⟩ := dmiRead_spec dmcontrolWord { t with pending := rest }
  have hstatus : hartStatus (sync (clearPulses { t with pending := rest })) h = .halted :=
    (hartStatus_sync { t with pending := rest } h).trans (statusAfterSync_of_halted f.status)
  have hsel : selected (sync (clearPulses { t with pending := rest })) = h := f.hartsel
  have hvalue : (dmcontrolWord (sync (clearPulses { t with pending := rest }))).extractLsb' 26 2 = 0#2 := by
    rw [dmcontrolWord_status, hsel, hstatus]
    rfl
  exact ⟨_, _, hstep, hanswers, hvalue, hsync.synced.debugInterrupt_eq_false hd, f.taken hstep rfl hstatus⟩

/-- R250 step 6, R144: the resume request clears the hart's entry of the halt table. -/
theorem HaltStage.resume (f : HaltStage s t h .halted (.packet (.dmi true 0x10 v) :: rest)) (hactive : v.getLsbD 29 = true)
    (hresume : v.getLsbD 28 = true) (hreset : v.getLsbD 30 = false) (hsel : (v.extractLsb' 16 10).toNat = h)
    (hd : debugInterrupt t h = false) :
    ∃ u, step t = .next u ∧ Answers u .ok [.resume h] ∧ isHalted u h = false ∧ debugInterrupt u h = false ∧
      u.pending = rest := by
  have hhalted := (hartStatus_selectedAfterSync v rest t h).trans (statusAfterSync_of_halted f.status)
  have hstep := step_dmcontrolWrite f.pending hactive hreset
  rw [hartselField, hsel, haltOrResume_of_halted hresume hhalted] at hstep
  have hcleared := (isHalted_setHalted h false (selectedAfterSync v rest t) h).trans (if_pos ⟨rfl, f.id_lt⟩)
  exact ⟨_, hstep, ⟨rfl, rfl⟩, hcleared, (synced_sync { t with pending := rest }).debugInterrupt_eq_false hd, rfl⟩

end Sys2Proof.Machine
end

section
/-! The statements of 43_hart_events.md, settled. -/

namespace Sys2Proof.Machine

/-- Settles O39: an accessor changes the interrupt set alone. -/
theorem interruptAccessors : Obligations.InterruptAccessors := by
  intro s h
  refine ⟨fun hlt => ?set, fun hlt => ?clear, fun hge => ?refused, ?get⟩
  case set =>
    exact ⟨_, congrArg Host.Outcome.next (accessor_of_lt hlt _ s), ⟨rfl, rfl⟩, mem_insertId s.interrupt h, rfl, rfl,
      frame_of_trackerOnly ⟨_, _, _, _, rfl⟩ .ok⟩
  case clear =>
    exact ⟨_, congrArg Host.Outcome.next (accessor_of_lt hlt _ s), ⟨rfl, rfl⟩,
      fun k => (mem_removeId s.interrupt h k).trans and_comm, rfl, rfl,
      frame_of_trackerOnly ⟨_, _, _, _, rfl⟩ .ok⟩
  case refused =>
    exact ⟨⟨_, rfl, accessor_refused hge _ s⟩, ⟨_, rfl, accessor_refused hge _ s⟩⟩
  case get =>
    obtain ⟨b, hget⟩ := getter_spec h s.interrupt s
    exact ⟨_, b, rfl, hget⟩

/-- Settles O40: an accessor changes the halt-notification set alone. -/
theorem haltNotificationAccessors : Obligations.HaltNotificationAccessors := by
  intro s h
  refine ⟨fun hlt => ?set, fun hlt => ?clear, fun hge => ?refused, ?get⟩
  case set =>
    exact ⟨_, congrArg Host.Outcome.next (accessor_of_lt hlt _ s), ⟨rfl, rfl⟩, mem_insertId s.haltNotification h, rfl, rfl,
      frame_of_trackerOnly ⟨_, _, _, _, rfl⟩ .ok⟩
  case clear =>
    exact ⟨_, congrArg Host.Outcome.next (accessor_of_lt hlt _ s), ⟨rfl, rfl⟩,
      fun k => (mem_removeId s.haltNotification h k).trans and_comm, rfl, rfl,
      frame_of_trackerOnly ⟨_, _, _, _, rfl⟩ .ok⟩
  case refused =>
    exact ⟨⟨_, rfl, accessor_refused hge _ s⟩, ⟨_, rfl, accessor_refused hge _ s⟩⟩
  case get =>
    obtain ⟨b, hget⟩ := getter_spec h s.haltNotification s
    exact ⟨_, b, rfl, hget⟩

/-- Settles O41: with an action in flight the event is its completion, else it does nothing. -/
theorem actionExecuted : Obligations.ActionExecuted := by
  intro s
  have hexec : exec .actionExecuted s = .next (respond .none (completeExecuted (clearPulses s))) := rfl
  obtain ⟨-, hpulses⟩ := answers_completeExecuted (clearPulses s)
  exact ⟨fun hb => exec_of_flightEnds hexec (flightEnds_completeExecuted hb) hpulses,
    fun hb => exec_of_stray hexec (if_neg (Bool.eq_false_iff.1 hb))⟩

/-- Settles O42: likewise, with the error written over whatever `cmderr` was. -/
theorem actionFaulted : Obligations.ActionFaulted := by
  intro s
  have hexec : exec .actionFaulted s = .next (respond .none (completeFaulted (clearPulses s))) := rfl
  obtain ⟨-, hpulses⟩ := answers_completeFaulted (clearPulses s)
  exact ⟨fun hb => exec_of_flightEnds hexec (flightEnds_completeFaulted hb) hpulses,
    fun hb => exec_of_stray hexec (if_neg (Bool.eq_false_iff.1 hb))⟩

/-- Settles O48: whichever of the four accesses it is, the BUS port refuses it and the hart takes the exception. -/
theorem refusedHartAccessFaults : Obligations.RefusedHartAccessFaults := by
  intro s imm rs1 r off i haddress hoff hi
  refine faultsHart_of_takeException ?_
  rcases hi with ⟨rfl, hout⟩ | ⟨rfl, hout⟩ | ⟨rfl, hx, hout⟩ | ⟨rfl, hx, hout⟩
  · change execSw imm r rs1 s = _
    rw [execSw, haddress]
    exact congrArg Host.Outcome.next (hartStore_refused s.stepping _ hoff hout (clearPulses s))
  · change execLw imm rs1 r s = _
    rw [execLw, haddress]
    exact congrArg Host.Outcome.next (hartLoad_refused s.stepping _ r hoff hout (clearPulses s))
  · change execSd imm r rs1 s = _
    rw [execSd, haddress, onXlen64_of_xlen64 _ hx]
    exact congrArg Host.Outcome.next (hartStore_refused s.stepping _ hoff hout (clearPulses s))
  · change execLd imm rs1 r s = _
    rw [execLd, haddress, onXlen64_of_xlen64 _ hx]
    exact congrArg Host.Outcome.next (hartLoad_refused s.stepping _ r hoff hout (clearPulses s))

/-- Settles O60: the six steps one after the other, each from the stage at which the last one left the hart. -/
theorem lifeOfAHalt : Obligations.LifeOfAHalt := by
  intro s v u x y a rest h hvactive hvhalt hvreset hst huactive huresume hureset hsel hp
  obtain ⟨t1, hstep1, hanswers1, hraised1, f1⟩ := haltRequest_step hp hvactive hvhalt hvreset hst
  obtain ⟨t2, hstep2, hanswers2, hraised2, f2⟩ := f1.getInterrupt hraised1
  obtain ⟨t3, hstep3, hpc3, hnotified3, f3⟩ := f2.poll hraised2
  obtain ⟨t4, hstep4, hdropped4, hnone4, f4⟩ := f3.fold hnotified3
  obtain ⟨-, -, hhalted4⟩ := (hartStatus_eq_halted t4 h).1 f4.status
  obtain ⟨t5, value, hstep5, hanswers5, hvalue5, hdropped5, f5⟩ := f4.readStatus hdropped4
  obtain ⟨t6, hstep6, hanswers6, hcleared6, hdropped6, hpending6⟩ :=
    f5.resume huactive huresume hureset (congrArg BitVec.toNat hsel) hdropped5
  exact ⟨t1, t2, t3, t4, t5, t6, value, ⟨hstep1, hanswers1, hraised1, f1.status⟩, ⟨hstep2, hanswers2, f2.status⟩,
    ⟨hstep3, hpc3, hnotified3, f3.status⟩, ⟨hstep4, hhalted4, hdropped4, hnone4, f4.status⟩,
    ⟨hstep5, hanswers5, hvalue5⟩, ⟨hstep6, hanswers6, hcleared6, hdropped6, hpending6⟩⟩

end Sys2Proof.Machine
end

section
/-! SUPPORT. The instruction words put together again from the fields that the decoder cuts out of them, and the words of the
stager as sums of shifted fields (R271 to R279). -/

namespace Sys2Proof.Machine

variable {w : Word32}

/-! ## Instruction words read back (R271) -/

theorem sTypeWord_of_fields {f3 : BitVec 3} (hop : w.extractLsb' 0 7 = 0x23#7) (hf : w.extractLsb' 12 3 = f3) :
    sTypeWord (immS w) (w.extractLsb' 20 5) (w.extractLsb' 15 5) f3 = w := by
  rw [sTypeWord, ← hop, ← hf, immS]
  simp (disch := decide) only [BitVec.extractLsb'_append_eq_of_le, BitVec.extractLsb'_append_eq_of_add_le,
    BitVec.extractLsb'_eq_self, Nat.reduceSub]
  simp (disch := rfl) only [BitVec.extractLsb'_append_extractLsb'_eq_extractLsb']
  exact BitVec.extractLsb'_eq_self

theorem iTypeWord_of_fields {f3 : BitVec 3} (hop : w.extractLsb' 0 7 = 0x03#7) (hf : w.extractLsb' 12 3 = f3) :
    iTypeWord (immI w) (w.extractLsb' 15 5) (w.extractLsb' 7 5) f3 = w := by
  rw [iTypeWord, ← hop, ← hf, immI]
  simp (disch := rfl) only [BitVec.extractLsb'_append_extractLsb'_eq_extractLsb']
  exact BitVec.extractLsb'_eq_self

/-- R278: the opcode and `rd = x0` are the twelve low bits of a JAL. -/
theorem jalWord_of_fields (h : w.extractLsb' 0 12 = 0x06F#12) : jalWord (immJ w) = w := by
  have hop : 0x6F#7 = w.extractLsb' 0 7 := by
    rw [← BitVec.extractLsb'_extractLsb'_of_le (len' := 12) (by decide), h]; rfl
  have hrd : 0#5 = w.extractLsb' 7 5 := by
    rw [← BitVec.extractLsb'_append_extractLsb'_eq_extractLsb' (start₁ := 0) (len₁ := 7) (start₂ := 7) (len₂ := 5) rfl] at h
    rw [← BitVec.extractLsb'_append_eq_left (a := w.extractLsb' 7 5) (b := w.extractLsb' 0 7), h]
    rfl
  rw [jalWord, hop, hrd, immJ]
  simp (disch := decide) only [BitVec.extractLsb'_append_eq_of_le, BitVec.extractLsb'_append_eq_of_add_le,
    BitVec.extractLsb'_eq_self, Nat.reduceSub]
  simp (disch := rfl) only [BitVec.extractLsb'_append_extractLsb'_eq_extractLsb']
  exact BitVec.extractLsb'_eq_self

/-- R271: a J-type immediate is even. -/
theorem immJ_even (w : Word32) : (immJ w).getLsbD 0 = false := by
  rw [immJ, BitVec.getLsbD_append]
  rfl

/-! ## The words of the stager (R273 to R276) -/

theorem sTypeWord_zero (a : BitVec 12) (r : BitVec 5) (f3 : BitVec 3) :
    sTypeWord a r 0#5 f3 = storeWordAt a r (f3.setWidth 32) := by
  have hbase : (0#5).setWidth 32 = 0#32 := rfl
  have hop : (0x23#7).setWidth 32 = 0x23#32 := rfl
  calc
    sTypeWord a r 0#5 f3 = (a.extractLsb' 5 7 ++ r ++ 0#5 ++ f3 ++ a.extractLsb' 0 5 ++ 0x23#7).setWidth 32 :=
      (BitVec.setWidth_eq _).symm
    _ = storeWordAt a r (f3.setWidth 32) := by
      simp only [storeWordAt, BitVec.setWidth_append_eq_shiftLeft_setWidth_or, BitVec.shiftLeft_or_distrib,
        ← BitVec.shiftLeft_add, hbase, hop, BitVec.or_zero]

theorem iTypeWord_zero (a : BitVec 12) (r : BitVec 5) (f3 : BitVec 3) :
    iTypeWord a 0#5 r f3 = loadWordAt a r (f3.setWidth 32) := by
  have hbase : (0#5).setWidth 32 = 0#32 := rfl
  have hop : (0x03#7).setWidth 32 = 0x03#32 := rfl
  calc
    iTypeWord a 0#5 r f3 = (a ++ 0#5 ++ f3 ++ r ++ 0x03#7).setWidth 32 := (BitVec.setWidth_eq _).symm
    _ = loadWordAt a r (f3.setWidth 32) := by
      simp only [loadWordAt, BitVec.setWidth_append_eq_shiftLeft_setWidth_or, BitVec.shiftLeft_or_distrib,
        ← BitVec.shiftLeft_add, hbase, hop, BitVec.or_zero]

/-- R279: for `A = 0x180` the fields do not overlap, so the words are sums; checked register by register. -/
theorem accessWords_0x180 (r : BitVec 5) :
    storeWordAt 0x180#12 r 2#32 = 0x18002023#32 + (r.setWidth 32 <<< 20) ∧
      loadWordAt 0x180#12 r 2#32 = 0x18002003#32 + (r.setWidth 32 <<< 7) ∧
      storeWordAt 0x180#12 r 3#32 = 0x18003023#32 + (r.setWidth 32 <<< 20) ∧
      loadWordAt 0x180#12 r 3#32 = 0x18003003#32 + (r.setWidth 32 <<< 7) := by
  revert r; decide

end Sys2Proof.Machine
end

section
/-! SUPPORT. The six instruction words as a hart executes them (R273 to R281), in the terms of Safety.lean: an access that the BUS
port serves, the wide access of a 32-bit hart, and the trap to the debug ROM. -/

namespace Sys2Proof.Machine

variable {s t : State} {i : Instr} {h off n : Nat} {r : BitVec 5} {bs : List Byte} {e : CmdErr}

/-! ## What an instruction leaves alone -/

/-- An instruction that changes the bytes, the harts' contexts and the answer alone leaves the rest of the block as it was. -/
theorem HartOnly.frame (hu : HartOnly (clearPulses s) t) :
    SameControl s t ∧ SameEngine s t ∧ SameTracker s t ∧ SameOutside s t := by
  obtain ⟨_, _, _, rfl⟩ := hu
  exact ⟨⟨⟨rfl, rfl, rfl, rfl, rfl, rfl⟩, rfl, rfl⟩, ⟨⟨rfl, rfl, rfl, rfl, rfl⟩, rfl⟩, ⟨fun _ => rfl, rfl, rfl⟩,
    ⟨rfl, rfl, rfl, rfl, rfl⟩⟩

/-! ## An access of a hart that the BUS port serves (R258, R273 to R276) -/

theorem hartStore_served (h : Nat) (v : XWord) (hin : InsideWritable off n) (s : State) :
    hartStore h (dmBase s.params + off) (littleEndian n v) s =
      advancePc h (respond .ok (writeBytes s off (littleEndian n v))) := by
  have hoff : off < 0xA0 := by unfold InsideWritable at hin; omega
  rw [insideWritable_iff, ← littleEndian_length n v] at hin
  rw [hartStore, if_pos (inModule_add s.params hoff), Nat.add_sub_cancel_left, if_pos hin, busStore_eq, if_pos hin]

theorem hartLoad_served (h : Nat) (extend : XWord → XWord) (rd : BitVec 5) (hin : Inside off n) (s : State) :
    hartLoad h (dmBase s.params + off) n extend rd s =
      advancePc h (writeX h rd (extend (ofLittleEndian (readBytes s off n))) (respond (.bytes (readBytes s off n)) s)) := by
  have hoff : off < 0xA0 := by unfold Inside at hin; omega
  rw [inside_iff] at hin
  rw [hartLoad, if_pos (inModule_add s.params hoff), Nat.add_sub_cancel_left, if_pos hin, busLoad_eq, if_pos hin]

/-- R273, R274: instruction `i` stores `bytes` from offset `off` up through the BUS port, and its hart goes on. -/
def StoresAndGoesOn (i : Instr) (s : State) (off : Nat) (bytes : List Byte) : Prop :=
  ∃ t, exec i s = .next t ∧ Answers t .ok [] ∧ Stored s t off bytes ∧ PcAdvanced s t s.stepping ∧
    SameRegisters s t ∧ SameControl s t ∧ SameEngine s t ∧ SameTracker s t ∧ SameOutside s t

theorem storesAndGoesOn_of_exec
    (hexec : exec i s = .next (advancePc s.stepping (respond .ok (writeBytes (clearPulses s) off bs)))) :
    StoresAndGoesOn i s off bs := by
  obtain ⟨hcontrol, hengine, htracker, houtside⟩ := HartOnly.frame ⟨_, _, _, rfl⟩
  exact ⟨_, hexec, ⟨rfl, rfl⟩, (bytesWritten_writeBytes off bs s).stored, readPc_setPc s.stepping _ _,
    readX_setPc s.stepping _ _, hcontrol, hengine, htracker, houtside⟩

/-- R275: a register written and a step forward change the contexts alone. -/
theorem advancePc_writeX_eq (h : Nat) (rd : BitVec 5) (v : XWord) (s : State) :
    advancePc h (writeX h rd v s) = { s with harts := (advancePc h (writeX h rd v s)).harts } := by
  rw [writeX_eq]
  rfl

theorem pcAdvanced_advancePc_writeX (h : Nat) (rd : BitVec 5) (v : XWord) (s : State) :
    PcAdvanced s (advancePc h (writeX h rd v s)) h := by
  intro k
  rw [advancePc, readPc_setPc, readPc_writeX, readPc_writeX, writeX_eq]

/-- R275, R276: instruction `i` loads `n` bytes from offset `off` up through the BUS port, `rd` holds `v`, and its hart goes on. -/
def LoadsAndGoesOn (i : Instr) (s : State) (off n : Nat) (rd : BitVec 5) (v : XWord) : Prop :=
  ∃ t, exec i s = .next t ∧
    (∀ k r, readX t k r = if k = s.stepping ∧ r = rd ∧ rd ≠ 0#5 then v else readX s k r) ∧
    Answers t (.bytes (readBytes s off n)) [] ∧ PcAdvanced s t s.stepping ∧ SameStorage s t ∧ SameControl s t ∧
    SameEngine s t ∧ SameTracker s t ∧ SameOutside s t

theorem loadsAndGoesOn_of_exec {rd : BitVec 5} {v : XWord}
    (hexec : exec i s = .next (advancePc s.stepping (writeX s.stepping rd v
      (respond (.bytes (readBytes s off n)) (clearPulses s))))) :
    LoadsAndGoesOn i s off n rd (clipXlen s.params v) := by
  have hload := advancePc_writeX_eq s.stepping rd v (respond (.bytes (readBytes s off n)) (clearPulses s))
  refine ⟨_, hexec, fun k q => ?_, ?_, pcAdvanced_advancePc_writeX s.stepping rd v _, ?_, ?_⟩
  · rw [advancePc, readX_setPc, readX_writeX]
    rfl
  · rw [hload]
    exact ⟨rfl, rfl⟩
  · rw [hload]
    exact fun _ => rfl
  · exact HartOnly.frame ⟨_, _, _, hload⟩

/-! ## SD and LD with `XLEN = 32` (R274, R276) -/

/-- Log 12: SD and LD are exceptions of a 32-bit hart. -/
theorem onXlen64_of_xlen32 (act : State → State) (hx : s.params.xlen = .x32) :
    onXlen64 act (clearPulses s) = takeException s.stepping (respond .none (clearPulses s)) := by
  simp only [onXlen64, clearPulses_params, hx]
  rfl

/-! ## The trap to the debug ROM (R251, R277, R281) -/

/-- R251, R277: the action in flight has completed, and the hart that carried it stands at a word of the debug ROM. -/
structure CompletedInRom (s t : State) (h : Nat) (e : CmdErr) : Prop where
  completed : Completed s t
  cmderr : t.cmderr = e
  pc : InDebugRom s.params (readPc t h)
  control : SameControl s t
  tracker : SameTracker s t
  registers : SameRegisters s t
  otherPcs : OtherPcsSame s t h
  params : t.params = s.params
  unavailable : t.unavailable = s.unavailable
  pending : t.pending = s.pending
  stepping : t.stepping = s.stepping

/-- R251, R277: the end of a flight and the way back to the debug ROM. -/
theorem FlightEnds.completedInRom (hend : FlightEnds s t e) (h : Nat) :
    CompletedInRom s (Machine.respond .none (returnToRom h t)) h e where
  completed := { hend.completed with }
  cmderr := hend.cmderr
  pc := hend.outside.params ▸ readPc_returnToRom h t
  control := { hend.control with }
  tracker := { hend.tracker with }
  registers := fun k q => (readX_setPc h _ _ k q).trans (hend.harts.sameRegisters k q)
  otherPcs := fun k hk => ((readPc_setPc h _ _ k).trans (if_neg hk)).trans (congrArg HartContext.pc (hend.harts k))
  params := hend.outside.params
  unavailable := hend.outside.unavailable
  pending := hend.outside.pending
  stepping := hend.outside.stepping

theorem trapToDebugRom_of_carries (hc : Carries s h) : trapToDebugRom h s = returnToRom h (completeExecuted s) := by
  rcases trapToDebugRom_cases h s with ⟨-, e⟩ | ⟨hn, -⟩ | ⟨hn, -⟩
  · exact e
  · exact absurd (hn.symm.trans ((carries_iff s h).1 hc)) Bool.false_ne_true
  · exact absurd (hn.symm.trans ((carries_iff s h).1 hc)) Bool.false_ne_true

/-- R277, R308: the trap of a hart that carries no action is its own, and leads to the debug ROM under the debugger. -/
theorem trapToDebugRom_of_not_carries (hc : ¬Carries s h) :
    OwnTrap s (respond .none (trapToDebugRom h (clearPulses s))) h ∧ (trapToDebugRom h (clearPulses s)).pulses = [] ∧
      (UnderDebugger s h → InDebugRom s.params (readPc (trapToDebugRom h (clearPulses s)) h)) := by
  rcases trapToDebugRom_cases h (clearPulses s) with ⟨hcarries, -⟩ | ⟨-, -, e⟩ | ⟨-, hu, e⟩
  · exact absurd ((carries_iff s h).2 hcarries) hc
  · rw [e]
    exact ⟨ownTrap_setPc h _ .none _ s, rfl, fun _ => readPc_returnToRom h (clearPulses s)⟩
  · rw [e]
    have hnot : ¬UnderDebugger s h := fun hunder =>
      Bool.false_ne_true (hu.symm.trans ((underDebugger_iff s h).1 (.inr hunder)))
    exact ⟨ownTrap_setPc h _ .none _ s, rfl, fun hunder => absurd hunder hnot⟩

end Sys2Proof.Machine
end

section
/-! The statements of 44_staged_instructions.md, settled. -/

namespace Sys2Proof.Machine

/-- Settles O3: the fields that the row keeps are the word's own, and those it fixes are what selected the row. -/
theorem instructionWordsKeepEveryBit : Obligations.InstructionWordsKeepEveryBit := by
  intro w i h
  unfold decodeHart at h
  split_ifs at h with hebreak hjal hstore hsw hsd hload hlw hld <;> obtain rfl := Option.some.inj h
  · exact ⟨rfl, congrArg Packet.hart hebreak.symm⟩
  · exact ⟨by rw [Instr.wf, immJ_even]; rfl, congrArg Packet.hart (jalWord_of_fields hjal)⟩
  · exact ⟨rfl, congrArg Packet.hart (sTypeWord_of_fields hstore hsw)⟩
  · exact ⟨rfl, congrArg Packet.hart (sTypeWord_of_fields hstore hsd)⟩
  · exact ⟨rfl, congrArg Packet.hart (iTypeWord_of_fields hload hlw)⟩
  · exact ⟨rfl, congrArg Packet.hart (iTypeWord_of_fields hload hld)⟩

/-- Settles O6: the words by R273 and R275, which for `A = 0x180` are the sums of R279. -/
theorem accessWords : Obligations.AccessWords := by
  have hany : ∀ (a : BitVec 12) (r : BitVec 5),
      encode (.sw a r 0#5) = .hart (storeWordAt a r 2#32) ∧ encode (.sd a r 0#5) = .hart (storeWordAt a r 3#32) ∧
      encode (.lw a 0#5 r) = .hart (loadWordAt a r 2#32) ∧ encode (.ld a 0#5 r) = .hart (loadWordAt a r 3#32) :=
    fun a r => ⟨congrArg Packet.hart (sTypeWord_zero a r 2#3), congrArg Packet.hart (sTypeWord_zero a r 3#3),
      congrArg Packet.hart (iTypeWord_zero a r 2#3), congrArg Packet.hart (iTypeWord_zero a r 3#3)⟩
  refine ⟨fun r => ?_, hany⟩
  obtain ⟨hsw, hsd, hlw, hld⟩ := hany 0x180#12 r
  obtain ⟨hsw', hlw', hsd', hld'⟩ := accessWords_0x180 r
  exact ⟨hsw' ▸ hsw, hlw' ▸ hlw, hsd' ▸ hsd, hld' ▸ hld⟩

/-- Settles O44: the address is the one that the BUS port serves, so the store writes its bytes and the hart goes on. -/
theorem hartStoresReachTheBus : Obligations.HartStoresReachTheBus := by
  refine ⟨effectiveAddress_exch, fun s imm rs2 rs1 off haddress => ⟨fun hin => ?sw, fun hin hx => ?sd⟩⟩
  case sw =>
    refine storesAndGoesOn_of_exec ?_
    change execSw imm rs2 rs1 s = _
    rw [execSw, haddress]
    exact congrArg Host.Outcome.next (hartStore_served s.stepping _ hin (clearPulses s))
  case sd =>
    refine storesAndGoesOn_of_exec ?_
    change execSd imm rs2 rs1 s = _
    rw [execSd, haddress, onXlen64_of_xlen64 _ hx]
    exact congrArg Host.Outcome.next (hartStore_served s.stepping _ hin (clearPulses s))

/-- Settles O45: likewise; the bytes loaded are one word, sign-extended, or the two words of a doubleword. -/
theorem hartLoadsReachTheBus : Obligations.HartLoadsReachTheBus := by
  intro s imm rs1 rd off haddress
  refine ⟨fun hin => ?lw, fun hin hx => ?ld⟩
  case lw =>
    refine loadsAndGoesOn_of_exec ?_
    rw [← signExtendWord_readBytes]
    change execLw imm rs1 rd s = _
    rw [execLw, haddress]
    exact congrArg Host.Outcome.next (hartLoad_served s.stepping _ rd hin (clearPulses s))
  case ld =>
    have hclip : clipXlen s.params (read32 s (off + 4) ++ read32 s off) = read32 s (off + 4) ++ read32 s off := by
      rw [clipXlen, hx]
    rw [← hclip]
    refine loadsAndGoesOn_of_exec ?_
    rw [← ofLittleEndian_readBytes_eight]
    change execLd imm rs1 rd s = _
    rw [execLd, haddress, onXlen64_of_xlen64 _ hx]
    exact congrArg Host.Outcome.next (hartLoad_served s.stepping _ rd hin (clearPulses s))

/-- Settles O46: the carrying hart's flight ends and it returns to the debug ROM; any other hart takes a trap of its own. -/
theorem ebreakEndsTheSequence : Obligations.EbreakEndsTheSequence := by
  intro s
  have hexec : exec .ebreak s = .next (respond .none (trapToDebugRom s.stepping (clearPulses s))) := rfl
  refine ⟨fun hc => ?carries, fun hc => ?other⟩
  case carries =>
    have htrap : trapToDebugRom s.stepping (clearPulses s) = returnToRom s.stepping (completeExecuted (clearPulses s)) :=
      trapToDebugRom_of_carries hc
    rw [htrap] at hexec
    have hend : FlightEnds s (completeExecuted (clearPulses s)) s.cmderr :=
      (flightEnds_completeExecuted (s := clearPulses s) hc.1).of_answered (r := s.response)
    obtain ⟨-, hpulses⟩ := answers_completeExecuted (clearPulses s)
    obtain ⟨hcompleted, hcmderr, hpc, hcontrol, htracker, hregisters, hothers, hparams, hunavailable, hpending, hstepping⟩ :=
      hend.completedInRom s.stepping
    exact ⟨_, hexec, ⟨rfl, hpulses⟩, hcompleted, hcmderr, hpc, hcontrol, htracker, hregisters, hothers, hparams,
      hunavailable, hpending, hstepping⟩
  case other =>
    obtain ⟨hown, hpulses, hrom⟩ := trapToDebugRom_of_not_carries hc
    exact ⟨_, hexec, ⟨rfl, hpulses⟩, hown, hrom⟩

/-- Settles O49: whichever of the two words it is, a 32-bit hart takes the exception. -/
theorem wideAccessOnNarrowHartFaults : Obligations.WideAccessOnNarrowHartFaults := by
  intro s imm rs1 r i hx hi
  refine faultsHart_of_takeException ?_
  rcases hi with rfl | rfl <;> exact congrArg Host.Outcome.next (onXlen64_of_xlen32 _ hx)

/-- Settles O47: the jump changes the pc of its hart alone. -/
theorem jalMovesThePc : Obligations.JalMovesThePc := by
  intro s imm
  obtain ⟨hcontrol, hengine, htracker, houtside⟩ := HartOnly.frame ⟨_, _, _, rfl⟩
  exact ⟨_, rfl, ⟨rfl, rfl⟩, readPc_setPc s.stepping _ _, readX_setPc s.stepping _ _, fun _ => rfl, hcontrol, hengine,
    htracker, houtside⟩

end Sys2Proof.Machine
end

section
/-! SUPPORT. `reset()` and power-on (R330, R332): every byte of the BUS offset space after them, and every field. -/

namespace Sys2Proof.Machine

/-- R330: the entry region is at its template, the program buffer is 0, and every other byte is kept. -/
theorem readByte_moduleReset (s : State) (a : Nat) :
    readByte (moduleReset s) a =
      if a < 0x10 then imageByte s.params.romEntry.toList a
      else if 0x20 ≤ a ∧ a < 0x40 then 0#8 else readByte s a := by
  have hbuffers : readByte (moduleReset s) a = readByte (restoreEntry (zeroProgbuf s)) a :=
    readByte_congr (restoreEntry (zeroProgbuf s)) (moduleReset s) rfl rfl rfl a
  rw [hbuffers, readByte_restoreEntry, readByte_zeroProgbuf]
  by_cases ha : a < 0x10
  · rw [if_pos ha, if_pos ha]
    exact entry_unlisted (zeroProgbuf s) a ha
  · rw [if_neg ha, if_neg ha]

theorem resetDone_moduleReset (s : State) : ResetDone s (moduleReset s) where
  dmactive := rfl
  hartsel := rfl
  autoexec := rfl
  cmderr := rfl
  busy := rfl
  lastCommand := rfl
  lastCommandValid := rfl
  halted := fun _ => BitVec.getLsbD_zero
  interrupt := rfl
  notification := rfl
  nextAction := rfl
  actionExecuted := rfl
  constants := ⟨rfl, rfl, rfl, rfl, rfl⟩
  harts := fun _ => rfl
  params := rfl
  unavailable := rfl
  pending := rfl
  stepping := rfl

/-- R142, R155: a write that leaves the module inactive. -/
theorem storeDmcontrol_of_inactive {v : Word32} (hv : dmactiveBit v = false) (s : State) :
    storeDmcontrol v s = moduleReset s :=
  if_neg (Bool.eq_false_iff.1 hv)

/-- R332: from 0x80 up no cell is left, so the offsets read as the bytes just drawn. -/
theorem readByte_drawExchange_of_exch (s : State) {a : Nat} (h : 0x80 ≤ a) :
    readByte (drawExchange s) a = (Config.exchInit s.freeCount).toList.getD (a - 0x80) 0#8 := by
  have hnone : lookupKey (drawExchange s).mem a = none := by
    rw [drawExchange_mem, lookupKey_filter s.mem (fun i => decide (i < 0x80)) a, decide_eq_false (Nat.not_lt.2 h)]
    rfl
  rw [readByte, hnone, Option.getD_none, unlisted, if_neg (by omega), if_neg (by omega), if_neg (by omega),
    if_neg (Nat.not_lt.2 h), drawExchange_exchInit]

end Sys2Proof.Machine
end

section
/-! The statements of 70_reset_and_hazards.md, settled. -/

namespace Sys2Proof.Machine

/-- Settles O18: the write is `Sync()` and then `reset()`, and `reset()` clears all that `Sync()` changes. -/
theorem softReset : Obligations.SoftReset := by
  intro s v hv
  have hexec : exec (.dmiWriteDmcontrol v) s = .next (respond .ok (moduleReset (sync (clearPulses s)))) :=
    congrArg (fun u => Host.Outcome.next (respond .ok u)) (storeDmcontrol_of_inactive hv (sync (clearPulses s)))
  refine ⟨_, hexec, ⟨rfl, rfl⟩, { resetDone_moduleReset (sync (clearPulses s)) with },
    { (syncedOnly_sync s).outside with }, fun a => ?_⟩
  rw [readByte_respond, readByte_moduleReset, readByte_sync]
  rfl

/-- Settles O43: the exchange buffer is drawn after `reset()`, and reads as the new bytes; below it `reset()` has the say. -/
theorem powerOn : Obligations.PowerOn := by
  intro s
  refine ⟨_, rfl, ⟨rfl, rfl⟩, { resetDone_moduleReset (clearPulses s) with }, fun a _ => ?_⟩
  rw [readByte_respond]
  rcases Nat.lt_or_ge a 0x80 with hbelow | hexch
  · rw [readByte_drawExchange_of_below _ hbelow, readByte_moduleReset, if_neg (Nat.not_le.2 hbelow)]
    rfl
  · rw [readByte_drawExchange_of_exch _ hexch, if_neg (by omega), if_neg (by omega), if_pos hexch]
    rfl

end Sys2Proof.Machine
end
